-- ==== Sys2Proof/Word.lean ====
section
/-! DEFINITION. The word and byte of the part (00_scope 6.1) and the packing of fields into a word. -/

namespace Sys2Proof

/-- A word is 32 bits; byte 0 holds the least significant 8 (00_scope 6.1). -/
abbrev Word := BitVec 32

abbrev Byte := BitVec 8

/-- The word whose bytes 0 to 3 are given. -/
def Word.ofBytes (b0 b1 b2 b3 : Byte) : Word := b3 ++ b2 ++ b1 ++ b0

/-- Byte `i` of a word, `i` in 0..3. -/
def Word.byte (w : Word) (i : Nat) : Byte := w.extractLsb' (8 * i) 8

end Sys2Proof
end

