-- ==== Sys2Proof/Syntax.lean ====
section
/-! DEFINITION. The commands of the block: one constructor of `Instr` for each row of
spec/opcode_table.json, with the operands its rule gives it. The 28 commands of the command ring carry
the tag and the argument words of their entry (section 11.4); host accesses carry address or word,
byte enables and data; line events carry the debounced durations they are defined by (R65); frame
events carry the fields of the frame (section 5.1); the arbiter's grant carries the requester that it goes to (R179). -/

namespace Sys2Proof

/-- The two telephone lines, coded A 0 and B 1 (R195). -/
inductive Line
  | A
  | B
deriving DecidableEq, Repr

/-- A ring burst on a line (R66): its presence is taken 200 ms after its start, and lasts `presenceMs` in all (log 24). -/
structure RingPresence where
  line : Line
  presenceMs : Nat
deriving DecidableEq, Repr

/-- The six requesters of the DRAM port (R178). -/
inductive Requester
  | bus | coder | decoder | sessionA | sessionB | poster
deriving DecidableEq, Repr

/-- The tag of a command entry (section 11.4). -/
abbrev Tag := BitVec 16

inductive Instr
  -- resets
  | powerOnReset (dramPins : BitVec 2) (twoLines guardForced : Bool)
  | hostReset
  -- the command ring
  | commandProducerWrite (be : BitVec 4) (data : Word)
  | commandReadDiscarded
  | unknownCommandKind (kind : Byte) (tag : Tag)
  | openCapture (tag : Tag) (purpose job width : Word)
  | closeCapture (tag : Tag)
  | closeCaptureComplete
  | abortCapture (tag : Tag)
  | keepPage (tag : Tag) (page : Word)
  | releasePage (tag : Tag) (page : Word)
  | setReserve (tag : Tag) (n : Word)
  | printPage (tag : Tag) (page : Word)
  | endPrint (tag : Tag)
  | setPrintMode (tag : Tag) (mode : Word)
  | setRenderWidth (tag : Tag) (width : Word)
  | setLineMode (tag : Tag) (line mode : Word)
  | setRings (tag : Tag) (line count : Word)
  | setLineOptions (tag : Tag) (line method blind metered maxStep : Word)
  | hangUp (tag : Tag) (line : Word)
  | setStationId (tag : Tag) (w1 w2 w3 w4 w5 : Word)
  | createJob (tag : Tag) (desk priority release maxAttempts interval : Word)
  | addRecipient (tag : Tag) (job n1 n2 n3 n4 : Word)
  | submitJob (tag : Tag) (job : Word)
  | releaseJob (tag : Tag) (job : Word)
  | cancelJob (tag : Tag) (job : Word)
  | cancelRecipient (tag : Tag) (job index : Word)
  | deleteJob (tag : Tag) (job : Word)
  | lockTariff (tag : Tag)
  | setClock (tag : Tag) (year month day hour : Word) (minute second : Byte)
  | setRegions (tag : Tag) (storeBase storeLength captureBase renderBase holdLimit : Word)
  | setAttn (tag : Tag) (mode mask : Word)
  | enableGuard (tag : Tag) (period : Word)
  | clearGuardFlag (tag : Tag)
  -- host accesses and the two windows
  | hostWrite (addr : BitVec 24) (be : BitVec 4) (data : Word)
  | captureWindowWrite (word : BitVec 10) (be : BitVec 4) (data : Word)
  | captureHoldExpiry
  | lineTake
  | captureAllocation
  | receiveAllocation (line : Line)
  | renderLineDecoded
  | renderSlotFilled
  | renderSlotRead (word : BitVec 10) (be : BitVec 4)
  | renderHoldExpiry
  -- the telephone lines
  | ringBurst (burst : RingPresence)
  | ringGapTimeout (line : Line)
  | answerToneEnd (line : Line)
  | seize (line : Line)
  | dialToneRecognised (line : Line)
  | dialToneTimeout (line : Line)
  | blindDialDelayEnd (line : Line)
  | dtmfStrobeEnd (line : Line)
  | dialBreakEnd (line : Line)
  | symbolEnd (line : Line)
  | interDigitMakeEnd (line : Line)
  | ctoneBurstStart (line : Line)
  | ctoneBurstEnd (line : Line)
  | toneCycleEnd (line : Line) (onMs offMs : Nat)
  | faultTone (line : Line)
  | progressTimeout (line : Line)
  | answerDetected (line : Line)
  | meterPulse (line : Line) (presenceMs : Nat)
  | carrierLost (line : Line)
  | recoveryEnd (line : Line)
  | lineCancel (line : Line)
  | dispatchChoice
  -- the session engines
  | identReceived (line : Line) (id : List Byte) (maxStep : Nat) (ready : Bool)
  | setupReceived (line : Line) (id : List Byte) (step : Nat)
  | readyReceived (line : Line)
  | retryReceived (line : Line)
  | trainingBurstSent (line : Line)
  | trainingBurstReceived (line : Line) (bits ones : Nat)
  | pageHeadReceived (line : Line) (number width lines bytes : Nat)
  | dataReceived (line : Line) (block frame : Nat) (payload : List Byte)
  | blockEndReceived (line : Line) (block count : Nat)
  | blockDataDrained (line : Line)
  | blockOkReceived (line : Line) (block : Nat)
  | gapsReceived (line : Line) (block : Nat) (frames : List Nat)
  | storeFullReceived (line : Line)
  | pageEndReceived (line : Line) (more : Bool)
  | pageDataDrained (line : Line)
  | pageOkReceived (line : Line)
  | clearReceived (line : Line) (cause : Nat)
  | frameRejected (line : Line) (bytes : List Byte)
  | frameSent (line : Line)
  | clearSent (line : Line)
  | responseTimeout (line : Line)
  | identTimeout (line : Line)
  | identRepeat (line : Line)
  | idleTimeout (line : Line)
  -- charging
  | unitDue (line : Line)
  | deskFieldWrite (desk : Fin 32) (spent : Bool) (be : BitVec 4) (data : Word)
  | callLogConsumerWrite (be : BitVec 4) (data : Word)
  -- the clock
  | secondAdvance
  | uptimeAdvance
  | crystalStop (subSecond : BitVec 15)
  | crystalRun
  | clockWord0Read
  | clockWord3Read
  -- posting, arbiter, reports, guard
  | postingWrite
  | arbiterGrant (requester : Requester)
  | reportConsumerWrite (be : BitVec 4) (data : Word)
  | attnPulseEnd
  | guardKick (be : BitVec 4) (data : Word)
  | guardExpiry
deriving DecidableEq, Repr

end Sys2Proof
end

