-- ==== Sys2Proof/Config.lean ====
section
/-! DEFINITION. What the manual fixes for every Zarjec 4120 (durations, sizes) and the one choice of
pins that `State.reset` is built with. One value is free. -/

namespace Sys2Proof.Config

/-! Durations, in units of the model's main clock, 100 ns each (log 4, DESIGN CHOICE of the unit). -/

def us : Nat := 10
def ms : Nat := 10000
/-- A tenth of a second, the unit of charging time (R139). -/
def tenth : Nat := 1000000
def second : Nat := 10000000

/-- 3 s, R101. -/
def responseTime : Nat := 3 * second
/-- 6 s, R102. -/
def idleTime : Nat := 6 * second
/-- 6 s, R88. -/
def identWait : Nat := 6 * second
/-- 3 s, R87. -/
def identRepeat : Nat := 3 * second
/-- 2 s, R77. -/
def recoveryTime : Nat := 2 * second
/-- 8 s, R66. -/
def ringGap : Nat := 8 * second
/-- 2.0 s, R67. -/
def answerTone : Nat := 2 * second
/-- 5 s, R69 and R71. -/
def dialToneWait : Nat := 5 * second
/-- 2 s, R69. -/
def blindDelay : Nat := 2 * second
/-- 60 s, R73. -/
def progressLimit : Nat := 60 * second
/-- 3 s between calling bursts, R72. -/
def ctonePeriod : Nat := 3 * second
/-- 500 ms, R72. -/
def ctoneBurst : Nat := 500 * ms
/-- 90 ms, R70. -/
def strobeTime : Nat := 90 * ms
/-- 60 ms, R70. -/
def breakTime : Nat := 60 * ms
/-- 40 ms, R70. -/
def makeTime : Nat := 40 * ms
/-- 800 ms, R70. -/
def interDigitTime : Nat := 800 * ms
/-- 2 s, R71. -/
def pauseTime : Nat := 2 * second
/-- 2 µs, R187. -/
def attnPulse : Nat := 2 * us
/-- 2 µs, R179. -/
def engineWait : Nat := 2 * us
/-- 50 ms without a crystal edge, R158. -/
def crystalWatch : Nat := 50 * ms
/-- Edges of the 32.768 kHz crystal in a second (R155). -/
def crystalRate : Nat := 32768

/-- Bytes of a store block (R1). -/
def blockBytes : Nat := 2048
/-- Bytes of a session block (R92). -/
def sessionBlockBytes : Nat := 16384
/-- Payload bytes of a whole DATA frame (R92). -/
def frameBytes : Nat := 256
/-- Items of the posting list (R176). -/
def postingRoom : Nat := 128
/-- Slots of the call log (R148). -/
def logSlots : Nat := 128
/-- Entries of the report ring (10.3). -/
def reportSlots : Nat := 64
/-- The largest page code (R39, R94). -/
def maxCodeBytes : Nat := 2624192

/-! The pins that `State.reset` stands for (log 1, DESIGN CHOICE). -/

/-- The code of the two DRAM size pins; 2 is 16 MiB (log 3, DESIGN CHOICE of the codes). -/
def dramPins : BitVec 2 := 2
def twoLines : Bool := true
def guardForced : Bool := false

/-! The free values. -/

/-- The zone that a prefix entry gives whose zone byte holds a number above 15 (R134, R135; log 27). -/
opaque zoneBeyond : Nat → BitVec 4

/-- Whether, at the month rollover with timetable entries to fire that has the number given, the choice that they bring is
taken before the month close (R166, log 29). -/
opaque choiceBeforeClose : Nat → Bool

end Sys2Proof.Config
end

