-- ==== Sys2Proof/Machine/Types.lean ====
section
/-! DEFINITION. The records and contexts that the blocks of the part hold, field by field as the tables
of the chapters give them. Counts the manual bounds are `Nat`; values software writes whole are words. -/

namespace Sys2Proof.Machine

/-- One value for each telephone line. -/
structure PerLine (α : Type) where
  a : α
  b : α
deriving DecidableEq, Repr

def PerLine.get {α : Type} (p : PerLine α) : Line → α
  | .A => p.a
  | .B => p.b

def PerLine.set {α : Type} (p : PerLine α) (l : Line) (x : α) : PerLine α :=
  match l with
  | .A => { p with a := x }
  | .B => { p with b := x }

/-! ## Chapter 8: the calendar -/

/-- R155; weekday 0 is Monday. -/
structure Calendar where
  year : Nat
  month : Nat
  day : Nat
  weekday : Nat
  hour : Nat
  minute : Nat
  second : Nat
deriving DecidableEq, Repr

/-! ## Causes (R195) -/

inductive Cause
  | completed | cancelled | noResponse | trainFail | lineQuality | remoteFull | remoteRefused | protocol
  | noDialTone | busy | noAnswer | faultTone | carrierLost | glare | hungUp | guard | reset
  | barred | deskLimit | powerOn | hostReset
deriving DecidableEq, Repr

/-! ## Chapter 1: the page table -/

inductive Origin
  | scan | received
deriving DecidableEq, Repr

inductive Purpose
  | send | copy | store | received
deriving DecidableEq, Repr

/-- A FILLING or COMPLETE page record (R11). A FREE record is `none` in the table. The chain lists the
page's blocks in code order; block count and first block are read from it (log 11). -/
structure Page where
  complete : Bool
  origin : Origin
  purpose : Purpose
  job : Nat
  width : Nat
  lineCount : Nat
  codeBytes : Nat
  chain : List Nat
  lostLines : Nat
  long : Bool
  damaged : Bool
  line : Option Line
  remoteId : Option (List Byte)
  rateStep : Option Nat
  completion : Option Calendar
  sendHold : Bool
  printHold : Bool
  keepHold : Bool
deriving DecidableEq, Repr

/-- 255 records; record `n` stands at index `n - 1` (R10). -/
abbrev PageTable := Vector (Option Page) 255

structure Store where
  total : Nat
  free : List Nat
  reserve : Nat
  pages : PageTable
deriving DecidableEq, Repr

/-! ## Chapter 2: the capture coder -/

inductive CaptureState
  | idle | opened | full
deriving DecidableEq, Repr

/-- R24: FREE with the next line, or PENDING with the line held. -/
inductive CaptureSlot
  | free (next : Nat)
  | pending (line : Nat)
deriving DecidableEq, Repr

/-- Code that waits for the capture allocation asked for (R27): the bits of one token, and the line it
codes, or no line for END. -/
structure AskedCode where
  bits : List Bool
  line : Option (List Bool)
deriving DecidableEq, Repr

/-- One byte of an engine's work on its way to DRAM: address and value (R178). -/
abbrev ByteWrite := Nat × Byte

structure Coder where
  state : CaptureState
  closing : Bool
  page : Nat
  purpose : Option Purpose
  job : Nat
  width : Option Nat
  slots : Vector CaptureSlot 8
  nextLine : Nat
  lost : List Nat
  reference : List Bool
  lostReported : Bool
  codeBits : Nat
  tail : List Bool
  asked : Option AskedCode
  endCoded : Bool
  writes : List ByteWrite
  /-- Bytes read so far of the slot line to be taken next (R27, R178). -/
  got : Nat
deriving DecidableEq, Repr

/-! ## Chapter 3: the render decoder -/

inductive PrintMode
  | run | hold
deriving DecidableEq, Repr

/-- R52: no line; EMPTY awaiting a line below L, marked lost or not; EMPTY with no line to come; FULL. -/
inductive RenderSlot
  | noLine
  | empty (line : Nat) (lost : Bool)
  | emptyDone
  | full (line : Nat)
deriving DecidableEq, Repr

structure Render where
  queue : List Nat
  mode : PrintMode
  width : Nat
  rendering : Bool
  page : Nat
  pageWidth : Option Nat
  lineCount : Nat
  nextLine : Nat
  codePos : Nat
  reference : List Bool
  slots : Vector RenderSlot 8
  linesEnded : Nat
  underrunLines : Nat
  underrunReported : Bool
  stopped : Bool
  produced : Bool
  writing : Option Nat
  writes : List ByteWrite
  /-- Code bytes read so far for the line to be decoded next (R50, R178). -/
  got : Nat
deriving DecidableEq, Repr

/-! ## Chapter 4: the line units -/

inductive LineMode
  | answerOnly | sendOnly | both | outOfService
deriving DecidableEq, Repr

inductive DialMethod
  | tone | pulse
deriving DecidableEq, Repr

inductive CallState
  | idle | ringing | answering | seized | dialling | progress | connected | recovery
deriving DecidableEq, Repr

inductive Direction
  | outgoing | incoming
deriving DecidableEq, Repr

/-- The fourteen symbols of a number (R112, R195). -/
inductive Symbol
  | digit (d : Fin 10)
  | star | hash | pause | wait
deriving DecidableEq, Repr

/-- What the dialling of the symbol in hand is doing (R70, R71). `brk n` is a loop break with `n` more
breaks of the digit to come; `mk n` the make before `n + 1` more breaks. -/
inductive DialPhase
  | none
  | strobe (s : Symbol)
  | gap
  | brk (left : Nat)
  | mk (left : Nat)
  | interDigit
  | pause
  | waitTone
deriving DecidableEq, Repr

structure LineSettings where
  mode : LineMode
  rings : Nat
  method : DialMethod
  blind : Bool
  metered : Bool
  maxStep : Nat
deriving DecidableEq, Repr

/-- The settings read at seize (R61, R68). -/
structure SeizeSettings where
  method : DialMethod
  blind : Bool
  metered : Bool
deriving DecidableEq, Repr

structure LineUnit where
  settings : LineSettings
  state : CallState
  direction : Option Direction
  number : Option (List Symbol)
  nextSymbol : Nat
  firstEnded : Bool
  seizeSettings : Option SeizeSettings
  ringCount : Nat
  busyRun : Nat
  ringbacks : Nat
  pulses : Nat
  endCause : Option Cause
  phase : DialPhase
  ctone : Bool
  timer : Option Nat
  ctoneTimer : Option Nat
deriving DecidableEq, Repr

/-! ## Chapter 5: the session engines -/

inductive Role
  | none | sender | receiver
deriving DecidableEq, Repr

/-- In the order of the session state table, so that the codes of R195 are the positions. -/
inductive SessionState
  | idle | waitIdent | setupSent | burst | burstSent | headSent | block | blockEndSent | pageEndSent
  | identSent | waitBurst | waitHead | receiving | waitClear | clearing
deriving DecidableEq, Repr

/-- The thirteen kinds of section 5.1. The cause of CLEAR is its code, of which 1 to 8 are causes. -/
inductive Frame
  | ident (id : List Byte) (maxStep : Nat) (ready : Bool)
  | setup (id : List Byte) (step : Nat)
  | ready
  | retry
  | pageHead (number width lines bytes : Nat)
  | data (block frame : Nat) (payload : List Byte)
  | blockEnd (block count : Nat)
  | blockOk (block : Nat)
  | gaps (block : Nat) (frames : List Nat)
  | pageEnd (more : Bool)
  | pageOk
  | storeFull
  | clear (cause : Nat)
deriving DecidableEq, Repr

/-- What an engine has handed to its data pump and is not yet reported sent, with the rate step. -/
inductive LinkItem
  | frame (f : Frame) (step : Nat)
  | burst (step : Nat)
deriving DecidableEq, Repr

/-- What a receiver waits to have in DRAM before it answers (R97, R99). -/
inductive Drain
  | none
  | block
  | page (more : Bool)
deriving DecidableEq, Repr

structure Session where
  role : Role
  state : SessionState
  negotiated : Nat
  training : Option Nat
  step1Retries : Nat
  remoteId : Option (List Byte)
  remoteMax : Option Nat
  position : Nat
  page : Nat
  pagesDone : Nat
  blockNumber : Nat
  frameMap : Vector Bool 64
  storeFailed : Bool
  more : Bool
  rounds : Nat
  sendings : Nat
  cancelPending : Bool
  endCause : Option Cause
  inHand : List Nat
  retrainGaps : Option (List Nat)
  awaiting : Option Frame
  repeatBurst : Bool
  responseTimer : Option Nat
  idleTimer : Option Nat
  identTimer : Option Nat
  allocAsked : Option Nat
  waitingData : List (Nat × List Byte)
  waitingEnds : List Nat
  drain : Drain
  lastPage : Nat
  sending : List LinkItem
  writes : List ByteWrite
  /-- Addresses of the bytes of the DATA frame in hand that are still to be read (R178). -/
  reads : List Nat
  lastSent : List Byte
deriving DecidableEq, Repr

/-! ## Chapter 6: the dispatcher -/

inductive JobState
  | assembling | held | ready | active | finished
deriving DecidableEq, Repr

inductive Priority
  | normal | deadline
deriving DecidableEq, Repr

inductive Release
  | now | timetable
deriving DecidableEq, Repr

inductive RecipientState
  | waiting | onLine | done | failed | cancelled
deriving DecidableEq, Repr

structure Recipient where
  number : List Symbol
  state : RecipientState
  attempts : Nat
  pagesConfirmed : Nat
  nextTry : Nat
  cancelMark : Bool
  lastCause : Option Cause
  lastLine : Option Line
  lastStep : Option Nat
  lastCall : Option Nat
deriving DecidableEq, Repr

structure Job where
  state : JobState
  desk : Nat
  priority : Priority
  release : Release
  maxAttempts : Nat
  interval : Nat
  submitSeq : Option Nat
  pageList : List Nat
  recipients : List Recipient
  done : Nat
  failed : Nat
  cancelled : Nat
deriving DecidableEq, Repr

/-- 16 records; job `j` stands at index `j - 1`; a free number is `none` (R111). -/
abbrev JobTable := Vector (Option Job) 16

structure Dispatch where
  jobs : JobTable
  submitSeq : Nat
  logFull : Bool
  /-- The job and the recipient that each line's outgoing call serves (R126). -/
  serving : PerLine (Option (Nat × Nat))
  /-- The seize asked for and not yet taken: line, job, recipient (R126, log 16). -/
  asked : Option (Line × Nat × Nat)
  /-- A cancel on its way to the line unit (R120, log 17). -/
  cancelSent : PerLine Bool
deriving DecidableEq, Repr

/-! ## Chapter 7: the charge unit -/

structure Desk where
  allowance : Word
  spent : Word
  spentLast : Word
  calls : Nat
  overReported : Bool
deriving DecidableEq, Repr

/-- R138. The instants of seize and answer and the next unit due are on the main clock. -/
structure CallRecord where
  sequence : Nat
  line : Line
  desk : Nat
  job : Nat
  recipient : Nat
  number : List Symbol
  zone : Nat
  seizeTime : Calendar
  endTime : Option Calendar
  answerOffset : Option Nat
  connectedTenths : Nat
  units : Nat
  pulses : Nat
  cost : Nat
  band : Option Nat
  step : Nat
  cause : Option Cause
  metered : Bool
  timeUnset : Bool
  saturated : Bool
  overAllowance : Bool
  meterPrice : Nat
  seizeAt : Nat
  answerAt : Option Nat
  nextDue : Option Nat
deriving DecidableEq, Repr

structure Charge where
  desks : Vector Desk 32
  locked : Bool
  absorbedReported : Bool
  calls : PerLine (Option CallRecord)
  logProducer : BitVec 16
  logConsumer : BitVec 16
  callSeq : Nat
deriving DecidableEq, Repr

/-! ## Chapter 8: the clock unit -/

structure Clock where
  calendar : Calendar
  subSecond : Nat
  unset : Bool
  stopped : Bool
  uptime : Nat
  readOpen : Bool
  moved : Bool
  now : Nat
  /-- The instant at which the sub-second count was last set or raised by a row (R158, log 26). -/
  counted : Nat
  /-- The month rollovers that have taken their order from the free value of R166 (log 29). -/
  monthTurns : Nat
deriving DecidableEq, Repr

/-! ## Chapter 9: the path unit -/

structure Regions where
  storeBase : Nat
  storeLength : Nat
  captureBase : Nat
  renderBase : Nat
deriving DecidableEq, Repr

structure Straps where
  dramMiB : Nat
  linesFitted : Nat
  guardForced : Bool
deriving DecidableEq, Repr

/-- One word of a host access: the DRAM word number (address / 4), the byte enables, and the data of a
write. -/
inductive BusOp
  | write (word : Nat) (be : BitVec 4) (data : Word)
  | read (word : Nat) (be : BitVec 4)
deriving DecidableEq, Repr

/-- R174: the word held and the instant the hold began. -/
structure Held where
  op : BusOp
  since : Nat
deriving DecidableEq, Repr

/-- Who asks for a control-area read (R176): the command unit for an entry, the charge unit or the clock unit
for an event that waits for the data. -/
inductive Asker
  | command | charge | clock
deriving DecidableEq, Repr

/-- R178: the access of the controller bus under way: the word made last, how many more words of its run the access can
take, and the instant of that word (log 13). -/
structure BusRun where
  last : BusOp
  left : Nat
  since : Nat
deriving DecidableEq, Repr

/-- R176. A posting writes one whole word of DRAM, by word number; a read takes 1 to 8 consecutive words in
one access, for the block that asked. -/
inductive PostItem
  | write (word : Nat) (value : Word)
  | read (word count : Nat) (asker : Asker)
deriving DecidableEq, Repr

/-- R178: each requester's request, with the instant it was made. -/
structure Requests where
  bus : Option Nat
  coder : Option Nat
  decoder : Option Nat
  sessionA : Option Nat
  sessionB : Option Nat
  poster : Option Nat
deriving DecidableEq, Repr

structure Path where
  regions : Option Regions
  holdLimit : Nat
  straps : Straps
  held : Option Held
  /-- The bus word that waits for the DRAM port (R178). -/
  atPort : Option BusOp
  /-- The bus words that wait behind a hold or behind the word at the port (log 14). -/
  stalled : List BusOp
  postings : List PostItem
  /-- The items for which the list has no room yet, in order (R176, log 9). -/
  waiting : List PostItem
  headHanded : Bool
  /-- The words, by word number, that its reads have handed to an event that waits for them (R176, log 10). -/
  heard : List (Nat × Word)
  /-- The access of the bus under way (R178, log 13). -/
  run : Option BusRun
  requests : Requests
  readData : Word
deriving DecidableEq, Repr

/-! ## Chapter 10: command unit, report unit, line guard -/

structure InProgress where
  kind : Byte
  tag : Tag
deriving DecidableEq, Repr

structure CommandUnit where
  producer : BitVec 16
  consumer : BitVec 16
  inProgress : Option InProgress
  readAsked : Bool
  withdrawn : Bool
  fetched : Option (List Word)
deriving DecidableEq, Repr

inductive AttnMode
  | off | level | pulse
deriving DecidableEq, Repr

inductive ReportKind
  | receiveEnd | deskOverAllowance
  | pageCompleted | captureLostLine | captureFull
  | printQueueFull | renderUnderrun | pagePrinted | printEnded
  | recipientDone | recipientFailed | jobFinished
  | logFull | monthClosed | writeAbsorbed | clockStopped | timetableFired | guardExpired | restarted
deriving DecidableEq, Repr

structure ReportUnit where
  producer : BitVec 16
  consumer : BitVec 16
  sequence : Nat
  overflow : Bool
  mode : AttnMode
  mask : BitVec 5
  pulse : Option Nat
deriving DecidableEq, Repr

structure Guard where
  enable : Bool
  period : Option Nat
  taken : Bool
  deadline : Option Nat
  expected : Nat
  expired : Bool
deriving DecidableEq, Repr

end Sys2Proof.Machine
end

