-- ==== Sys2Proof/Machine/Memory.lean ====
section
/-! DEFINITION. The page DRAM: a list of (address, byte) pairs in one canonical form, addresses strictly
rising and no byte of value 0. An unlisted byte reads 0 (log 2, DESIGN CHOICE). -/

namespace Sys2Proof.Machine

/-- What a byte of DRAM that nothing has written reads as (log 2). -/
def Memory.unlisted : Byte := 0

def Memory.read : List Host.Cell → Nat → Byte
  | [], _ => Memory.unlisted
  | (a, v) :: m, x => if x = a then v else Memory.read m x

/-- Write one byte and keep the canonical form. -/
def Memory.write : List Host.Cell → Nat → Byte → List Host.Cell
  | [], x, w => if w = Memory.unlisted then [] else [(x, w)]
  | (a, v) :: m, x, w =>
    if x < a then (if w = Memory.unlisted then (a, v) :: m else (x, w) :: (a, v) :: m)
    else if x = a then (if w = Memory.unlisted then m else (x, w) :: m)
    else (a, v) :: Memory.write m x w

/-- The canonical form, from a least address on. -/
def Memory.wfFrom : Nat → List Host.Cell → Bool
  | _, [] => true
  | least, (a, v) :: m => decide (least ≤ a) && decide (v ≠ Memory.unlisted) && Memory.wfFrom (a + 1) m

/-- The canonical form: addresses strictly rising, no entry equal to what an unlisted byte reads as. -/
def Memory.wf (m : List Host.Cell) : Bool := Memory.wfFrom 0 m

/-- The word of DRAM with number `w`, at byte address 4 × `w`. -/
def Memory.readWord (m : List Host.Cell) (w : Nat) : Word :=
  Word.ofBytes (Memory.read m (4 * w)) (Memory.read m (4 * w + 1)) (Memory.read m (4 * w + 2)) (Memory.read m (4 * w + 3))

/-- Write the enabled bytes of a word. -/
def Memory.writeMasked (m : List Host.Cell) (w : Nat) (be : BitVec 4) (v : Word) : List Host.Cell :=
  let m := if be.getLsbD 0 then Memory.write m (4 * w) (v.byte 0) else m
  let m := if be.getLsbD 1 then Memory.write m (4 * w + 1) (v.byte 1) else m
  let m := if be.getLsbD 2 then Memory.write m (4 * w + 2) (v.byte 2) else m
  if be.getLsbD 3 then Memory.write m (4 * w + 3) (v.byte 3) else m

def Memory.writeWord (m : List Host.Cell) (w : Nat) (v : Word) : List Host.Cell :=
  Memory.writeMasked m w 0b1111#4 v

/-- Write bytes, each at its address, in order. -/
def Memory.writeBytes (m : List Host.Cell) (bytes : List ByteWrite) : List Host.Cell :=
  bytes.foldl (fun m b => Memory.write m b.1 b.2) m

/-- `n` bytes from an address on. -/
def Memory.readBytes (m : List Host.Cell) (addr n : Nat) : List Byte :=
  (List.range n).map fun i => Memory.read m (addr + i)

/-- The nonzero bytes of a word at its place, for a memory built word by word in rising order. -/
def Memory.cellsOf (w : Nat) (v : Word) : List Host.Cell :=
  [(4 * w, v.byte 0), (4 * w + 1, v.byte 1), (4 * w + 2, v.byte 2), (4 * w + 3, v.byte 3)].filter
    fun c => c.2 ≠ Memory.unlisted

/-- The bytes of `old` with those that `be` enables replaced from `new` (R145, R150, R181, R186). -/
def mergeBytes (old : Word) (be : BitVec 4) (new : Word) : Word :=
  Word.ofBytes (if be.getLsbD 0 then new.byte 0 else old.byte 0) (if be.getLsbD 1 then new.byte 1 else old.byte 1)
    (if be.getLsbD 2 then new.byte 2 else old.byte 2) (if be.getLsbD 3 then new.byte 3 else old.byte 3)

/-! Bits and bytes of a line: pixel `p` is bit 7 − (p mod 8) of byte p / 8 (R23, R39). -/

/-- The eight bits of a byte, most significant first. -/
def bitsOfByte (b : Byte) : List Bool :=
  [b.getLsbD 7, b.getLsbD 6, b.getLsbD 5, b.getLsbD 4, b.getLsbD 3, b.getLsbD 2, b.getLsbD 1, b.getLsbD 0]

/-- A number from bits, most significant first. -/
def natOfBits (bits : List Bool) : Nat := bits.foldl (fun n b => 2 * n + b.toNat) 0

/-- Whole bytes of a bit string and the bits left over, with fuel for the bytes. -/
def splitBytesFuel : Nat → List Bool → List Byte × List Bool
  | 0, bits => ([], bits)
  | fuel + 1, bits =>
    if bits.length < 8 then ([], bits)
    else
      let r := splitBytesFuel fuel (bits.drop 8)
      (BitVec.ofNat 8 (natOfBits (bits.take 8)) :: r.1, r.2)

/-- The whole bytes of a bit string, first bit in bit 7, and the bits left over (R39). -/
def splitBytes (bits : List Bool) : List Byte × List Bool := splitBytesFuel (bits.length / 8) bits

end Sys2Proof.Machine
end

