-- ==== Sys2Proof/Machine/Operands.lean ====
section
/-! DEFINITION. The coding of named values (R195) and the reading of argument words (section 11.4), of
symbol strings and of station IDs (R109, R114, R195). -/

namespace Sys2Proof.Machine

/-! ## Codes of named values -/

def lineCode : Line → Nat
  | .A => 0
  | .B => 1

def Line.other : Line → Line
  | .A => .B
  | .B => .A

/-- A line argument (R62): line A is 0, line B is 1, any other word names neither. -/
def lineOfWord (w : Word) : Option Line :=
  if w = 0 then some .A else if w = 1 then some .B else none

def Cause.code : Cause → Nat
  | .completed => 1 | .cancelled => 2 | .noResponse => 3 | .trainFail => 4 | .lineQuality => 5
  | .remoteFull => 6 | .remoteRefused => 7 | .protocol => 8 | .noDialTone => 9 | .busy => 10
  | .noAnswer => 11 | .faultTone => 12 | .carrierLost => 13 | .glare => 14 | .hungUp => 15
  | .guard => 16 | .reset => 17 | .barred => 18 | .deskLimit => 19 | .powerOn => 20 | .hostReset => 21

/-- The eight causes that CLEAR carries (R195). -/
def clearCause : Nat → Option Cause
  | 1 => some .completed | 2 => some .cancelled | 3 => some .noResponse | 4 => some .trainFail
  | 5 => some .lineQuality | 6 => some .remoteFull | 7 => some .remoteRefused | 8 => some .protocol
  | _ => none

def Purpose.code : Purpose → Nat
  | .send => 0 | .copy => 1 | .store => 2 | .received => 3

/-- The purposes OPEN_CAPTURE may give (R29). -/
def capturePurpose (w : Word) : Option Purpose :=
  if w = 0 then some .send else if w = 1 then some .copy else if w = 2 then some .store else none

def Origin.code : Origin → Nat
  | .scan => 0 | .received => 1

def PrintMode.code : PrintMode → Nat
  | .run => 0 | .hold => 1

def printModeOf (n : Nat) : Option PrintMode :=
  match n with
  | 0 => some .run | 1 => some .hold | _ => none

def LineMode.code : LineMode → Nat
  | .answerOnly => 0 | .sendOnly => 1 | .both => 2 | .outOfService => 3

def lineModeOf (n : Nat) : Option LineMode :=
  match n with
  | 0 => some .answerOnly | 1 => some .sendOnly | 2 => some .both | 3 => some .outOfService | _ => none

def DialMethod.code : DialMethod → Nat
  | .tone => 0 | .pulse => 1

def dialMethodOf (n : Nat) : Option DialMethod :=
  match n with
  | 0 => some .tone | 1 => some .pulse | _ => none

def CallState.code : CallState → Nat
  | .idle => 0 | .ringing => 1 | .answering => 2 | .seized => 3 | .dialling => 4 | .progress => 5
  | .connected => 6 | .recovery => 7

def Direction.code : Direction → Nat
  | .outgoing => 0 | .incoming => 1

def Role.code : Role → Nat
  | .none => 0 | .sender => 1 | .receiver => 2

def SessionState.code : SessionState → Nat
  | .idle => 0 | .waitIdent => 1 | .setupSent => 2 | .burst => 3 | .burstSent => 4 | .headSent => 5
  | .block => 6 | .blockEndSent => 7 | .pageEndSent => 8 | .identSent => 9 | .waitBurst => 10
  | .waitHead => 11 | .receiving => 12 | .waitClear => 13 | .clearing => 14

def JobState.code : JobState → Nat
  | .assembling => 0 | .held => 1 | .ready => 2 | .active => 3 | .finished => 4

def Priority.code : Priority → Nat
  | .normal => 0 | .deadline => 1

def priorityOf (n : Nat) : Option Priority :=
  match n with
  | 0 => some .normal | 1 => some .deadline | _ => none

def Release.code : Release → Nat
  | .now => 0 | .timetable => 1

def releaseOf (n : Nat) : Option Release :=
  match n with
  | 0 => some .now | 1 => some .timetable | _ => none

def RecipientState.code : RecipientState → Nat
  | .waiting => 0 | .onLine => 1 | .done => 2 | .failed => 3 | .cancelled => 4

def AttnMode.code : AttnMode → Nat
  | .off => 0 | .level => 1 | .pulse => 2

def attnModeOf (n : Nat) : Option AttnMode :=
  match n with
  | 0 => some .off | 1 => some .level | 2 => some .pulse | _ => none

/-- The position, from 1, in the class table (R195). -/
def ReportKind.code : ReportKind → Nat
  | .receiveEnd => 1 | .deskOverAllowance => 2 | .pageCompleted => 3 | .captureLostLine => 4
  | .captureFull => 5 | .printQueueFull => 6 | .renderUnderrun => 7 | .pagePrinted => 8 | .printEnded => 9
  | .recipientDone => 10 | .recipientFailed => 11 | .jobFinished => 12 | .logFull => 13
  | .monthClosed => 14 | .writeAbsorbed => 15 | .clockStopped => 16 | .timetableFired => 17
  | .guardExpired => 18 | .restarted => 19

/-- The classes of section 10.3, CALL 0, PAGE 1, PRINT 2, JOB 3, SYSTEM 4; a mask bit n is class n. -/
def ReportKind.cls : ReportKind → Nat
  | .receiveEnd | .deskOverAllowance => 0
  | .pageCompleted | .captureLostLine | .captureFull => 1
  | .printQueueFull | .renderUnderrun | .pagePrinted | .printEnded => 2
  | .recipientDone | .recipientFailed | .jobFinished => 3
  | .logFull | .monthClosed | .writeAbsorbed | .clockStopped | .timetableFired | .guardExpired | .restarted => 4

/-! ## Refusal codes (R183, R195) -/

inductive CommandRefusal
  | badArgument | noSuch | state | full | busy | noStore | empty
deriving DecidableEq, Repr

/-- What a command ends with: DONE and its result word, or a refusal. -/
inductive Answer
  | done (result : Word)
  | refused (code : CommandRefusal)
deriving DecidableEq, Repr

/-- The status word code: DONE 1, then the refusals in the order of R195. -/
def Answer.code : Answer → Nat
  | .done _ => 1
  | .refused .badArgument => 2 | .refused .noSuch => 3 | .refused .state => 4 | .refused .full => 5
  | .refused .busy => 6 | .refused .noStore => 7 | .refused .empty => 8

/-- R183: the result of a refused command is 0. -/
def Answer.result : Answer → Word
  | .done r => r
  | .refused _ => 0

/-! ## Symbols and numbers -/

def Symbol.code : Symbol → Nat
  | .digit d => d.val | .star => 10 | .hash => 11 | .pause => 12 | .wait => 13

def symbolOf (n : Nat) : Option Symbol :=
  if h : n < 10 then some (.digit ⟨n, h⟩)
  else match n with
    | 10 => some .star | 11 => some .hash | 12 => some .pause | 13 => some .wait | _ => none

/-- The nibbles of bytes, high nibble first. -/
def nibbles (bytes : List Byte) : List Nat :=
  bytes.flatMap fun b => [b.toNat / 16, b.toNat % 16]

/-- The bytes of words, byte 0 first. -/
def bytesOfWords (ws : List Word) : List Byte :=
  ws.flatMap fun w => [w.byte 0, w.byte 1, w.byte 2, w.byte 3]

/-- The codes before the first end code, or all of them (R195). -/
def beforeEnd (codes : List Nat) : List Nat := codes.takeWhile (· ≠ 15)

/-- Every code a symbol, or nothing (R114). -/
def symbolsOf : List Nat → Option (List Symbol)
  | [] => some []
  | c :: cs =>
    match symbolOf c, symbolsOf cs with
    | some s, some ss => some (s :: ss)
    | _, _ => none

/-- A number in four argument words (R114): BAD_ARGUMENT is `none`. -/
def numberOfWords (ws : List Word) : Option (List Symbol) :=
  match symbolsOf (beforeEnd (nibbles (bytesOfWords ws))) with
  | some (s :: ss) => some (s :: ss)
  | _ => none

/-- A number as 16 bytes, two symbols a byte, the end code after the last, then 0 (R195, log 23). -/
def numberNibbles (number : List Symbol) : List Nat :=
  ((number.map Symbol.code ++ [15]).take 32) ++ List.replicate (31 - number.length) 0

/-- The digit string of a number, P, W, * and # left out (R135). -/
def digitString (number : List Symbol) : List Nat :=
  number.filterMap fun s => match s with
    | .digit d => some d.val
    | _ => none

/-- A character of a station ID (R109). -/
def idChar (b : Byte) : Bool :=
  (decide (0x30 ≤ b.toNat) && decide (b.toNat ≤ 0x39)) || b == 0x20 || b == 0x2B

/-- The characters before the first byte of 0, of at most 20 (R109, R196). -/
def idOfBytes (bytes : List Byte) : List Byte := (bytes.take 20).takeWhile (· ≠ 0)

end Sys2Proof.Machine
end

