-- ==== Sys2Proof/Machine/Frames.lean ====
section
/-! DEFINITION. Session frames on the data link: their bytes (section 11.8, R196), their check (R83),
their ranges (section 5.1), and the division of page code into session blocks and frames (R92). -/

namespace Sys2Proof.Machine

/-! ## The check (R83): CRC-16, polynomial x^16 + x^12 + x^5 + 1, register all ones, inverted -/

/-- One bit shifted into the register. -/
def crcBit (reg : BitVec 16) (bit : Bool) : BitVec 16 :=
  if (reg.getLsbD 15).xor bit then (reg <<< 1) ^^^ 0x1021#16 else reg <<< 1

/-- One byte, most significant bit first. -/
def crcByte (reg : BitVec 16) (b : Byte) : BitVec 16 := (bitsOfByte b).foldl crcBit reg

/-- The check of the bytes from the kind to the last field byte. -/
def frameCheck (bytes : List Byte) : BitVec 16 := ~~~ (bytes.foldl crcByte 0xFFFF#16)

/-- The check as two bytes, high byte first. -/
def checkBytes (bytes : List Byte) : List Byte :=
  [(frameCheck bytes).extractLsb' 8 8, (frameCheck bytes).extractLsb' 0 8]

/-! ## Bytes of a frame (R196) -/

def byte (n : Nat) : Byte := BitVec.ofNat 8 n

/-- `n` bytes of a number, high byte first. -/
def bigEndian : Nat → Nat → List Byte
  | 0, _ => []
  | n + 1, v => bigEndian n (v / 256) ++ [byte v]

/-- The 20 bytes of a station ID field. -/
def idField (id : List Byte) : List Byte := id.take 20 ++ List.replicate (20 - id.length) 0

/-- The bytes before the check (section 11.8). -/
def Frame.body : Frame → List Byte
  | .ident id maxStep room => byte 1 :: idField id ++ [byte maxStep, byte room.toNat]
  | .setup id step => byte 2 :: idField id ++ [byte step]
  | .ready => [byte 3]
  | .retry => [byte 4]
  | .pageHead number width lines bytes =>
    byte 5 :: byte number :: bigEndian 2 width ++ bigEndian 2 lines ++ bigEndian 4 bytes
  | .data block frame payload => byte 6 :: byte block :: byte frame :: bigEndian 2 payload.length ++ payload
  | .blockEnd block count => [byte 7, byte block, byte count]
  | .blockOk block => [byte 8, byte block]
  | .gaps block frames => byte 9 :: byte block :: byte frames.length :: frames.map byte
  | .pageEnd more => [byte 10, byte more.toNat]
  | .pageOk => [byte 11]
  | .storeFull => [byte 12]
  | .clear cause => [byte 13, byte cause]

/-- The bytes the data pump sends: the frame and its check. -/
def Frame.wire (f : Frame) : List Byte := f.body ++ checkBytes f.body

/-- A good frame (R83): its last two bytes are the check of the rest. -/
def frameGood (bytes : List Byte) : Bool :=
  decide (3 ≤ bytes.length) &&
    bytes.drop (bytes.length - 2) == checkBytes (bytes.take (bytes.length - 2))

/-! ## Reading the bytes of a frame (R196) -/

/-- A number from bytes, high byte first. -/
def natOfBytes (bytes : List Byte) : Nat := bytes.foldl (fun n b => 256 * n + b.toNat) 0

/-- Yes 1, no 0 (R195); another value is none. -/
def boolOfByte (b : Byte) : Option Bool :=
  if b = 0 then some false else if b = 1 then some true else none

/-- The frame whose bytes before the check are given, when kind and length fit the table (R196). -/
def Frame.parseBody (bytes : List Byte) : Option Frame :=
  match bytes with
  | [] => none
  | k :: r =>
    let at_ (i : Nat) : Nat := (r.getD i 0).toNat
    match k.toNat with
    | 1 => if r.length = 22 then (boolOfByte (r.getD 21 0)).map fun room => .ident (idOfBytes r) (at_ 20) room else none
    | 2 => if r.length = 21 then some (.setup (idOfBytes r) (at_ 20)) else none
    | 3 => if r = [] then some .ready else none
    | 4 => if r = [] then some .retry else none
    | 5 =>
      if r.length = 9 then
        some (.pageHead (at_ 0) (natOfBytes ((r.drop 1).take 2)) (natOfBytes ((r.drop 3).take 2)) (natOfBytes (r.drop 5)))
      else none
    | 6 =>
      if 4 ≤ r.length ∧ natOfBytes ((r.drop 2).take 2) = r.length - 4 then some (.data (at_ 0) (at_ 1) (r.drop 4)) else none
    | 7 => if r.length = 2 then some (.blockEnd (at_ 0) (at_ 1)) else none
    | 8 => if r.length = 1 then some (.blockOk (at_ 0)) else none
    | 9 =>
      if 2 ≤ r.length ∧ at_ 1 = r.length - 2 then some (.gaps (at_ 0) ((r.drop 2).map BitVec.toNat)) else none
    | 10 => if r.length = 1 then (boolOfByte (r.getD 0 0)).map .pageEnd else none
    | 11 => if r = [] then some .pageOk else none
    | 12 => if r = [] then some .storeFull else none
    | 13 => if r.length = 1 then some (.clear (at_ 0)) else none
    | _ => none

/-- How an engine reads the bytes its data pump hands it (R83, R196): the good frame they are, if its
kind is known and its length fits. The rows of the table carry the fields this gives. -/
def Frame.parse (bytes : List Byte) : Option Frame :=
  if frameGood bytes then Frame.parseBody (bytes.take (bytes.length - 2)) else none

/-! ## Ranges (section 5.1, R83) -/

def strictlyAscending : List Nat → Bool
  | a :: b :: l => decide (a < b) && strictlyAscending (b :: l)
  | _ => true

/-- The field values lie in the ranges of section 5.1; a frame outside them is one of an unexpected
kind. The cause of CLEAR is left to R104 and R105, which act on a value that is no cause. -/
def Frame.inRange : Frame → Bool
  | .ident id maxStep _ => decide (id.length ≤ 20) && decide (1 ≤ maxStep) && decide (maxStep ≤ 4)
  | .setup id step => decide (id.length ≤ 20) && decide (1 ≤ step) && decide (step ≤ 4)
  | .pageHead number _ _ _ => decide (1 ≤ number) && decide (number ≤ 64)
  | .data _ frame payload => decide (frame ≤ 63) && decide (1 ≤ payload.length) && decide (payload.length ≤ 256)
  | .blockEnd _ count => decide (1 ≤ count) && decide (count ≤ 64)
  | .gaps _ frames => decide (1 ≤ frames.length) && decide (frames.length ≤ 64) && strictlyAscending frames
  | _ => true

/-! ## Session blocks and frames (R92) -/

def ceilDiv (n d : Nat) : Nat := (n + d - 1) / d

/-- Session blocks of a page. -/
def sessionBlocks (codeBytes : Nat) : Nat := ceilDiv codeBytes Config.sessionBlockBytes

/-- Bytes of session block `b`; 0 when the page has no such block. -/
def blockLength (codeBytes b : Nat) : Nat :=
  min Config.sessionBlockBytes (codeBytes - b * Config.sessionBlockBytes)

/-- Frames of session block `b`. -/
def blockFrames (codeBytes b : Nat) : Nat := ceilDiv (blockLength codeBytes b) Config.frameBytes

/-- Payload length of frame `n` of session block `b`. -/
def frameLength (codeBytes b n : Nat) : Nat :=
  min Config.frameBytes (blockLength codeBytes b - n * Config.frameBytes)

/-- The first code byte that frame `n` of session block `b` carries. -/
def frameStart (b n : Nat) : Nat := b * Config.sessionBlockBytes + n * Config.frameBytes

/-! ## Training (R84, R90) -/

/-- Bits of the training burst at a step: 1.5 s at 3200, 6400, 9600 and 12800 bit/s. -/
def burstBits (step : Nat) : Nat := 4800 * step

/-- One-bits plus the shortfall. -/
def burstErrors (step bits ones : Nat) : Nat := ones + (burstBits step - bits)

/-- READY: the errors are at most the expected count divided by 1000, rounded down. -/
def burstPasses (step bits ones : Nat) : Bool := decide (burstErrors step bits ones ≤ burstBits step / 1000)

end Sys2Proof.Machine
end

