-- ==== Sys2Proof/Machine/Layout.lean ====
section
/-! DEFINITION. The control area map (R193) and the words of the records it holds (sections 11.3 to
11.6), with absent fields shown as R194 gives and named values coded as R195 gives. Places are word
offsets from the control area base C. -/

namespace Sys2Proof.Machine

/-! ## The map (section 11.1), in words from C -/

def statusPlace : Nat := 0x0000 / 4
def clockPlace : Nat := 0x0080 / 4
def guardPlace : Nat := 0x0090 / 4
def commandProducerPlace : Nat := 0x0094 / 4
def reportConsumerPlace : Nat := 0x0098 / 4
def logConsumerPlace : Nat := 0x009C / 4
def reportProducerPlace : Nat := 0x00A0 / 4
def commandRingPlace : Nat := 0x0100 / 4
def reportRingPlace : Nat := 0x0400 / 4
def openCallPlace : Nat := 0x0C00 / 4
def callLogPlace : Nat := 0x1000 / 4
def pageTablePlace : Nat := 0x3000 / 4
def deskPlace : Nat := 0x7000 / 4
def prefixPlace : Nat := 0x7400 / 4
def zonePlace : Nat := 0x7600 / 4
def ratePlace : Nat := 0x7640 / 4
def bandPlace : Nat := 0x7840 / 4
def meterPlace : Nat := 0x78A0 / 4
/-- One past the tariff area: 1192 bytes from 7400h. -/
def tariffEnd : Nat := (0x7400 + 1192) / 4
def timetablePlace : Nat := 0x7900 / 4
def timetableEnd : Nat := 0x7A00 / 4
def jobPlace : Nat := 0x8000 / 4
def recipientPlace : Nat := 0x8800 / 4

/-- The place of the entry in ring slot `i`. -/
def entryPlace (i : Nat) : Nat := commandRingPlace + 8 * i
def reportPlace (i : Nat) : Nat := reportRingPlace + 8 * i
def openPlace (l : Line) : Nat := openCallPlace + 16 * lineCode l
def logPlace (i : Nat) : Nat := callLogPlace + 16 * i
def pagePlace (n : Nat) : Nat := pageTablePlace + 16 * n
def deskRecordPlace (d : Nat) : Nat := deskPlace + 8 * d
def jobHeaderPlace (j : Nat) : Nat := jobPlace + 32 * (j - 1)
def recipientRecordPlace (j i : Nat) : Nat := recipientPlace + 256 * (j - 1) + 8 * i

/-! ## Packing -/

/-- One field of a word: value, lowest bit, width. -/
structure Field where
  value : Nat
  lo : Nat
  width : Nat

/-- A word from its fields; bits that no field uses are 0 (R194). -/
def pack (fields : List Field) : Word :=
  BitVec.ofNat 32 (fields.foldl (fun n f => n + (f.value % 2 ^ f.width) * 2 ^ f.lo) 0)

/-- The bits `lo` to `lo + width - 1` of a word. -/
def unpack (w : Word) (lo width : Nat) : Nat := w.toNat / 2 ^ lo % 2 ^ width

/-- R194: an absent field whose range holds 0 is shown with every bit set. -/
def shown {α : Type} (width : Nat) (code : α → Nat) : Option α → Nat
  | some x => code x
  | none => 2 ^ width - 1

/-- R194: an absent field whose range does not hold 0 is shown as 0. -/
def shownZero {α : Type} (code : α → Nat) : Option α → Nat
  | some x => code x
  | none => 0

/-- `n` words of bytes, byte 0 first, 0 after the last. -/
def wordsOfBytes (n : Nat) (bytes : List Byte) : List Word :=
  (List.range n).map fun i =>
    Word.ofBytes (bytes.getD (4 * i) 0) (bytes.getD (4 * i + 1) 0) (bytes.getD (4 * i + 2) 0) (bytes.getD (4 * i + 3) 0)

/-- Nibbles to bytes, high nibble first. -/
def bytesOfNibbles (ns : List Nat) : List Byte :=
  (List.range (ns.length / 2)).map fun i => byte (16 * ns.getD (2 * i) 0 + ns.getD (2 * i + 1) 0)

/-! ## Dates, numbers, station IDs -/

def dateWord (c : Calendar) : Word := pack [⟨c.day, 0, 8⟩, ⟨c.month, 8, 8⟩, ⟨c.year, 16, 16⟩]
def timeWord (c : Calendar) : Word := pack [⟨c.second, 0, 8⟩, ⟨c.minute, 8, 8⟩, ⟨c.hour, 16, 8⟩]

/-- A date and time that is absent is 0 in both words (R194). -/
def stampWords : Option Calendar → List Word
  | some c => [dateWord c, timeWord c]
  | none => [0, 0]

/-- A symbol string in four words (R195). -/
def numberWords (number : List Symbol) : List Word := wordsOfBytes 4 (bytesOfNibbles (numberNibbles number))

/-- A station ID in six words: length, then characters; an absent one has length FFh (R194). -/
def idWords : Option (List Byte) → List Word
  | some id => wordsOfBytes 6 (byte id.length :: id)
  | none => wordsOfBytes 6 [0xFF]

/-! ## Records (section 11.5) -/

def pageWords : Option Page → List Word
  | none =>
    [0, pack [⟨0xFF, 8, 8⟩], 0, 0, pack [⟨0xFFFF, 16, 16⟩], 0, 0, 0] ++ idWords none ++ [0, 0]
  | some p =>
    [pack [⟨if p.complete then 2 else 1, 0, 2⟩, ⟨p.origin.code, 2, 1⟩, ⟨p.purpose.code, 3, 2⟩,
       ⟨p.sendHold.toNat, 5, 1⟩, ⟨p.printHold.toNat, 6, 1⟩, ⟨p.keepHold.toNat, 7, 1⟩],
     pack [⟨p.job, 0, 8⟩, ⟨shown 8 lineCode p.line, 8, 8⟩, ⟨shownZero id p.rateStep, 16, 8⟩,
       ⟨p.long.toNat, 24, 1⟩, ⟨p.damaged.toNat, 25, 1⟩],
     pack [⟨p.width, 0, 16⟩, ⟨p.lineCount, 16, 16⟩],
     pack [⟨p.codeBytes, 0, 32⟩],
     pack [⟨p.chain.length, 0, 16⟩, ⟨shown 16 id p.chain.head?, 16, 16⟩],
     pack [⟨p.lostLines, 0, 32⟩]] ++ stampWords p.completion ++ idWords p.remoteId ++ [0, 0]

def callWords : Option CallRecord → List Word
  | none => List.replicate 16 0
  | some c =>
    [pack [⟨c.sequence, 0, 32⟩],
     pack [⟨lineCode c.line, 0, 8⟩, ⟨c.desk, 8, 8⟩, ⟨c.job, 16, 8⟩, ⟨c.recipient, 24, 8⟩],
     pack [⟨c.zone, 0, 8⟩, ⟨shown 8 id c.band, 8, 8⟩, ⟨c.step, 16, 8⟩, ⟨shownZero Cause.code c.cause, 24, 8⟩],
     pack [⟨c.metered.toNat, 0, 1⟩, ⟨c.timeUnset.toNat, 1, 1⟩, ⟨c.saturated.toNat, 2, 1⟩, ⟨c.overAllowance.toNat, 3, 1⟩]]
    ++ stampWords (some c.seizeTime) ++ stampWords c.endTime ++
    [pack [⟨shown 32 id c.answerOffset, 0, 32⟩], pack [⟨c.connectedTenths, 0, 32⟩],
     pack [⟨c.units, 0, 16⟩, ⟨c.pulses, 16, 16⟩], pack [⟨c.cost, 0, 32⟩]] ++ numberWords c.number

/-- R132: a free job number holds 7 in its state byte and 0 elsewhere. -/
def jobWords : Option Job → List Word
  | none => pack [⟨7, 0, 8⟩] :: List.replicate 31 0
  | some j =>
    [pack [⟨j.state.code, 0, 8⟩, ⟨j.done, 8, 8⟩, ⟨j.failed, 16, 8⟩, ⟨j.cancelled, 24, 8⟩],
     pack [⟨j.desk, 0, 8⟩, ⟨j.priority.code, 8, 8⟩, ⟨j.release.code, 16, 8⟩, ⟨j.maxAttempts, 24, 8⟩],
     pack [⟨j.interval, 0, 8⟩, ⟨j.recipients.length, 8, 8⟩, ⟨j.pageList.length, 16, 8⟩],
     pack [⟨shownZero id j.submitSeq, 0, 32⟩]] ++ wordsOfBytes 16 (j.pageList.map byte) ++ List.replicate 12 0

def recipientWords (r : Recipient) : List Word :=
  [pack [⟨r.state.code, 0, 3⟩, ⟨r.cancelMark.toNat, 3, 1⟩, ⟨r.attempts, 8, 8⟩, ⟨r.pagesConfirmed, 16, 8⟩,
     ⟨shownZero Cause.code r.lastCause, 24, 8⟩],
   pack [⟨r.nextTry, 0, 32⟩],
   pack [⟨shown 8 lineCode r.lastLine, 0, 8⟩, ⟨shown 8 id r.lastStep, 8, 8⟩],
   pack [⟨shownZero id r.lastCall, 0, 32⟩]] ++ numberWords r.number

def deskWords (d : Desk) : List Word :=
  [d.allowance, d.spent, d.spentLast, pack [⟨d.calls, 0, 16⟩], pack [⟨d.overReported.toNat, 0, 1⟩], 0, 0, 0]

/-! ## The clock record (section 11.3) -/

def clockWords (c : Clock) : List Word :=
  [dateWord c.calendar, timeWord c.calendar,
   pack [⟨c.calendar.weekday, 0, 8⟩, ⟨c.unset.toNat, 8, 1⟩, ⟨c.stopped.toNat, 9, 1⟩],
   pack [⟨c.uptime, 0, 31⟩]]

/-! ## Report entries (section 11.4) -/

/-- What a block hands to the report unit: the fields its rule names; the rest are absent (R185). -/
structure Report where
  kind : ReportKind
  job : Nat := 0
  page : Nat := 0
  line : Option Line := none
  recipient : Option Nat := none
  cause : Option Cause := none
  value1 : Option Nat := none
  value2 : Option Nat := none

def reportWords (sequence uptime : Nat) (c : Calendar) (r : Report) : List Word :=
  [pack [⟨sequence, 0, 32⟩],
   pack [⟨r.kind.code, 0, 8⟩, ⟨r.kind.cls, 8, 8⟩, ⟨shown 8 lineCode r.line, 16, 8⟩, ⟨shown 8 id r.recipient, 24, 8⟩],
   pack [⟨uptime, 0, 32⟩], dateWord c, timeWord c,
   pack [⟨r.job, 0, 8⟩, ⟨r.page, 8, 8⟩, ⟨shownZero Cause.code r.cause, 16, 8⟩],
   pack [⟨shown 32 id r.value1, 0, 32⟩], pack [⟨shown 32 id r.value2, 0, 32⟩]]

end Sys2Proof.Machine
end

