-- ==== Sys2Proof/Machine/Flags.lean ====
section
/-! DEFINITION. The counts, status flags and outputs that are computed from the blocks' state: ring
counts (R148, R181, R185), the ATTN output (R187), the line outputs (R64, R67, R70), and the words of
the status record (section 11.3). -/

namespace Sys2Proof.Machine

/-! ## Counts -/

/-- R181: producer less consumer, modulo 65536. -/
def CommandUnit.pendingCount (c : CommandUnit) : Nat := (c.producer - c.consumer).toNat

/-- R185. -/
def ReportUnit.unconsumed (r : ReportUnit) : Nat := (r.producer - r.consumer).toNat

/-- R148. -/
def Charge.unconsumed (c : Charge) : Nat := (c.logProducer - c.logConsumer).toNat

/-- R148: the open call records. -/
def Charge.openCount (c : Charge) : Nat := c.calls.a.isSome.toNat + c.calls.b.isSome.toNat

/-- R150. -/
def Charge.room (c : Charge) : Bool := decide (c.unconsumed + c.openCount < Config.logSlots)

/-! ## Outputs -/

/-- R64: the five off-hook states. -/
def CallState.offHook : CallState → Bool
  | .answering | .seized | .dialling | .progress | .connected => true
  | .idle | .ringing | .recovery => false

/-- The HOOK output (R64). -/
def LineUnit.hook (u : LineUnit) : Bool := u.state.offHook

/-- The ATONE output: asserted in ANSWERING (R67). -/
def LineUnit.atone (u : LineUnit) : Bool := u.state == .answering

/-- The DTMF digit presented with its strobe (R70). -/
def LineUnit.dtmf (u : LineUnit) : Option Symbol :=
  match u.phase with
  | .strobe s => some s
  | _ => none

/-- The DIAL_BREAK output (R70). -/
def LineUnit.dialBreak (u : LineUnit) : Bool :=
  match u.phase with
  | .brk _ => true
  | _ => false

/-- The ATTN output (R187). -/
def ReportUnit.attn (r : ReportUnit) : Bool :=
  match r.mode with
  | .off => false
  | .level => decide (0 < r.unconsumed)
  | .pulse => r.pulse.isSome

/-! ## The status record (section 11.3) -/

def baseField (place : Nat) : Option Nat → Field
  | some base => ⟨base / 4096, place, 16⟩
  | none => ⟨0xFFFF, place, 16⟩

def statusPath (p : Path) : Word :=
  pack [⟨p.straps.dramMiB, 0, 8⟩, ⟨p.straps.linesFitted, 8, 8⟩, ⟨p.straps.guardForced.toNat, 16, 1⟩,
    ⟨p.regions.isSome.toNat, 17, 1⟩, ⟨p.holdLimit, 24, 8⟩]

def statusBases (p : Path) : Word :=
  pack [baseField 0 (p.regions.map Regions.storeBase), baseField 16 (p.regions.map Regions.captureBase)]

def statusRenderBase (p : Path) : Word := pack [baseField 0 (p.regions.map Regions.renderBase)]

/-- 4097 × T + F in bits 0..23, the reserve in byte 3. -/
def statusStore (s : Store) : Word :=
  pack [⟨4097 * (s.total - 31) + s.free.length, 0, 24⟩, ⟨s.reserve, 24, 8⟩]

/-- R60. -/
def statusRender (r : Render) : Word :=
  pack [⟨r.queue.length, 0, 8⟩, ⟨r.queue.headD 0, 8, 8⟩, ⟨r.rendering.toNat, 16, 1⟩, ⟨r.mode.code, 17, 1⟩,
    ⟨r.width / 64, 24, 8⟩]

/-- R64. -/
def statusLine (u : LineUnit) : Word :=
  pack [⟨u.state.code, 0, 8⟩, ⟨shown 8 Direction.code u.direction, 8, 8⟩, ⟨u.ringCount, 16, 8⟩]

/-- R61. -/
def statusSettings (s : LineSettings) : Word :=
  pack [⟨s.mode.code, 0, 8⟩, ⟨s.rings, 8, 8⟩, ⟨s.method.code, 16, 1⟩, ⟨s.blind.toNat, 17, 1⟩, ⟨s.metered.toNat, 18, 1⟩,
    ⟨s.maxStep, 24, 8⟩]

/-- R86; the pages done stop at 255. -/
def statusSession (s : Session) : Word :=
  pack [⟨s.role.code, 0, 2⟩, ⟨s.state.code, 2, 4⟩, ⟨s.negotiated, 6, 3⟩, ⟨s.position, 9, 7⟩, ⟨min s.pagesDone 255, 16, 8⟩,
    ⟨s.blockNumber, 24, 8⟩]

/-- Job 0 for none; the recipient of no call is absent, every bit set (log 23). -/
def servingFields (place : Nat) : Option (Nat × Nat) → List Field
  | some (j, r) => [⟨j, place, 5⟩, ⟨r, place + 5, 5⟩]
  | none => [⟨0, place, 5⟩, ⟨31, place + 5, 5⟩]

/-- R132. -/
def statusDispatch (d : Dispatch) : Word :=
  pack ([⟨d.submitSeq, 0, 11⟩, ⟨d.logFull.toNat, 11, 1⟩] ++ servingFields 12 d.serving.a ++ servingFields 22 d.serving.b)

/-- R154, the first word. -/
def statusLog (c : Charge) : Word :=
  pack [⟨c.logProducer.toNat, 0, 16⟩, ⟨c.unconsumed, 16, 8⟩, ⟨c.openCount, 24, 8⟩]

/-- R154, the second word. -/
def statusTariff (c : Charge) : Word :=
  pack [⟨c.callSeq, 0, 30⟩, ⟨c.locked.toNat, 30, 1⟩, ⟨c.absorbedReported.toNat, 31, 1⟩]

/-- R181. -/
def statusCommand (c : CommandUnit) : Word :=
  pack [⟨c.consumer.toNat, 0, 16⟩, ⟨c.pendingCount, 16, 8⟩, ⟨c.inProgress.isSome.toNat, 24, 1⟩]

/-- R185. -/
def statusReport (r : ReportUnit) : Word :=
  pack [⟨r.producer.toNat, 0, 16⟩, ⟨r.unconsumed, 16, 8⟩, ⟨r.overflow.toNat, 24, 1⟩, ⟨r.mode.code, 25, 2⟩,
    ⟨r.mask.toNat, 27, 5⟩]

/-- R189. -/
def statusGuard (g : Guard) : Word :=
  pack [⟨g.enable.toNat, 0, 1⟩, ⟨g.expired.toNat, 1, 1⟩, ⟨g.expected, 8, 8⟩, ⟨shownZero id g.period, 16, 8⟩]

end Sys2Proof.Machine
end

