-- ==== Sys2Proof/Machine/State.lean ====
section
/-! DEFINITION. The state of the part: the fourteen blocks of 00_scope section 2, the page DRAM, and the
queue of the rows that wait; the reasons a step can stop; and the state right after power-on reset. -/

namespace Sys2Proof.Machine

/-- No step of this part faults: every access completes (R169) and an event that its rule does not act
on is ignored. The type has no constructor. -/
inductive Fault
deriving DecidableEq, Repr

inductive Refusal
  /-- A row without a meaning, by its mnemonic. Safe. Raised by no row: every row has its meaning. -/
  | notModelled (mnemonic : String)
deriving DecidableEq, Repr

structure State where
  path : Path
  mem : List Host.Cell
  store : Store
  coder : Coder
  render : Render
  lines : PerLine LineUnit
  sessions : PerLine Session
  stationId : List Byte
  dispatch : Dispatch
  charge : Charge
  clock : Clock
  command : CommandUnit
  report : ReportUnit
  guard : Guard
  pending : List Instr
deriving DecidableEq, Repr

/-! ## Power-on values -/

/-- R180; codes 0, 1 and 2 are the assigned ones (log 3, DESIGN CHOICE), the fourth is taken as 4 MiB. -/
def dramMiBOf (pins : BitVec 2) : Nat :=
  if pins = 1 then 8 else if pins = 2 then 16 else 4

def Straps.latch (pins : BitVec 2) (two forced : Bool) : Straps :=
  { dramMiB := dramMiBOf pins, linesFitted := if two then 2 else 1, guardForced := forced }

/-- The word number of C, the start of the control area (R168). -/
def Straps.controlBase (s : Straps) : Nat := s.dramMiB * 262144 - 16384

def Requests.none : Requests :=
  { bus := .none, coder := .none, decoder := .none, sessionA := .none, sessionB := .none, poster := .none }

/-- Chapter 9, the table before 9.1. -/
def Path.powerOn (straps : Straps) : Path :=
  { regions := none, holdLimit := 64, straps := straps, held := none, atPort := none,
    stalled := [], postings := [], waiting := [], headHanded := false, heard := [], run := none,
    requests := Requests.none, readData := 0 }

/-- R4, R6, R10. -/
def Store.powerOn : Store := { total := 0, free := [], reserve := 32, pages := Vector.replicate 255 none }

/-- All slots FREE, slot `s` with next line `s` (R24; log 20). -/
def CaptureSlot.allFree : Vector CaptureSlot 8 :=
  #v[.free 0, .free 1, .free 2, .free 3, .free 4, .free 5, .free 6, .free 7]

/-- The table of section 2.2. -/
def Coder.powerOn : Coder :=
  { state := .idle, closing := false, page := 0, purpose := none, job := 0, width := none,
    slots := CaptureSlot.allFree, nextLine := 0, lost := [], reference := [], lostReported := false, codeBits := 0,
    tail := [], asked := none, endCoded := false, writes := [], got := 0 }

/-- R47, R48 and the table of section 3.3. -/
def Render.powerOn : Render :=
  { queue := [], mode := .run, width := 2048, rendering := false, page := 0, pageWidth := none, lineCount := 0,
    nextLine := 0, codePos := 0, reference := [], slots := Vector.replicate 8 .noLine, linesEnded := 0, underrunLines := 0,
    underrunReported := false, stopped := false, produced := false, writing := none, writes := [], got := 0 }

/-- R61. -/
def LineSettings.powerOn (fitted : Bool) : LineSettings :=
  { mode := if fitted then .both else .outOfService, rings := 2, method := .tone, blind := false, metered := false, maxStep := 4 }

/-- The table of section 4.2. -/
def LineUnit.powerOn (fitted : Bool) : LineUnit :=
  { settings := LineSettings.powerOn fitted, state := .idle, direction := none, number := none, nextSymbol := 0,
    firstEnded := false, seizeSettings := none, ringCount := 0, busyRun := 0, ringbacks := 0, pulses := 0, endCause := none,
    phase := .none, ctone := false, timer := none, ctoneTimer := none }

/-- The table of section 5.2. -/
def Session.powerOn : Session :=
  { role := .none, state := .idle, negotiated := 0, training := none, step1Retries := 0, remoteId := none, remoteMax := none,
    position := 0, page := 0, pagesDone := 0, blockNumber := 0, frameMap := Vector.replicate 64 false, storeFailed := false,
    more := true, rounds := 0, sendings := 0, cancelPending := false, endCause := none, inHand := [], retrainGaps := none,
    awaiting := none, repeatBurst := false, responseTimer := none, idleTimer := none, identTimer := none, allocAsked := none,
    waitingData := [], waitingEnds := [], drain := .none, lastPage := 0, sending := [], writes := [], reads := [], lastSent := [] }

/-- R133. -/
def Dispatch.powerOn : Dispatch :=
  { jobs := Vector.replicate 16 none, submitSeq := 1, logFull := false, serving := ⟨none, none⟩, asked := none,
    cancelSent := ⟨false, false⟩ }

/-- R144. -/
def Desk.powerOn : Desk := { allowance := 0, spent := 0, spentLast := 0, calls := 0, overReported := false }

/-- R144, R148, R153. -/
def Charge.powerOn : Charge :=
  { desks := Vector.replicate 32 Desk.powerOn, locked := false, absorbedReported := false, calls := ⟨none, none⟩,
    logProducer := 0, logConsumer := 0, callSeq := 1 }

/-- R155: 2000-01-01 00:00:00, weekday 5. -/
def Calendar.powerOn : Calendar := { year := 2000, month := 1, day := 1, weekday := 5, hour := 0, minute := 0, second := 0 }

/-- R167. -/
def Clock.powerOn : Clock :=
  { calendar := Calendar.powerOn, subSecond := 0, unset := true, stopped := false, uptime := 0, readOpen := false, moved := false,
    now := 0, counted := 0, monthTurns := 0 }

/-- R184. -/
def CommandUnit.powerOn : CommandUnit :=
  { producer := 0, consumer := 0, inProgress := none, readAsked := false, withdrawn := false, fetched := none }

/-- R188, before RESTARTED. -/
def ReportUnit.powerOn : ReportUnit :=
  { producer := 0, consumer := 0, sequence := 1, overflow := false, mode := .off, mask := 0b11111#5, pulse := none }

/-- The table of section 10.5. -/
def Guard.powerOn (forced : Bool) : Guard :=
  { enable := forced, period := if forced then some 10 else none, taken := false, deadline := none, expected := 1,
    expired := false }

/-- R188: RESTARTED, the first report after a reset. -/
def restartedReport (cause : Cause) (straps : Straps) : Report :=
  { kind := .restarted, cause := some cause, value1 := some straps.linesFitted, value2 := some straps.dramMiB }

/-- The words of the status record, words 0 to 22 (section 11.3). -/
def State.statusWords (s : State) : List Word :=
  [statusPath s.path, statusBases s.path, statusRenderBase s.path, statusStore s.store, statusRender s.render,
   statusLine s.lines.a, statusLine s.lines.b, statusSettings s.lines.a.settings, statusSettings s.lines.b.settings,
   statusSession s.sessions.a, statusSession s.sessions.b, statusDispatch s.dispatch, statusLog s.charge,
   statusTariff s.charge, statusCommand s.command, statusReport s.report, statusGuard s.guard] ++ idWords (some s.stationId)

/-- Words placed one after another from a word offset on. -/
def placed (place : Nat) (ws : List Word) : List (Nat × Word) := ws.zipIdx.map fun p => (place + p.2, p.1)

/-- The words that the postings of a power-on reset leave in the control area and that are not 0, in
rising order of place: status record, clock record, report producer index, RESTARTED in entry 0, the
255 FREE page records and the 16 free job headers. Every other word they write is 0 (R134, R144, R148,
R163, R170, R188, R192). -/
def State.powerOnWords (s : State) : List (Nat × Word) :=
  placed statusPlace s.statusWords ++ placed clockPlace (clockWords s.clock) ++ [(reportProducerPlace, 1)] ++
    placed (reportPlace 0) (reportWords 1 s.clock.uptime s.clock.calendar (restartedReport .powerOn s.path.straps)) ++
    (List.range 255).flatMap (fun n => placed (pagePlace (n + 1)) (pageWords none)) ++
    (List.range 16).flatMap (fun j => placed (jobHeaderPlace (j + 1)) (jobWords none))

/-- Every register at its power-on value, RESTARTED taken (R188): the registers' part of the reset. -/
def State.powerOnRegisters (straps : Straps) : State :=
  { path := Path.powerOn straps, mem := [], store := Store.powerOn, coder := Coder.powerOn, render := Render.powerOn,
    lines := ⟨LineUnit.powerOn true, LineUnit.powerOn (decide (straps.linesFitted = 2))⟩,
    sessions := ⟨Session.powerOn, Session.powerOn⟩, stationId := [], dispatch := Dispatch.powerOn, charge := Charge.powerOn,
    clock := Clock.powerOn, command := CommandUnit.powerOn,
    report := { ReportUnit.powerOn with producer := 1, sequence := 2 },
    guard := Guard.powerOn straps.guardForced, pending := [] }

/-- The state right after a power-on reset, at the instant the poster has emptied its list: the straps
latched, every block at its power-on value, the initial records and RESTARTED in DRAM, and every
other byte of DRAM 0 (log 1, log 2). -/
def State.powerOn (straps : Straps) : State :=
  let s := State.powerOnRegisters straps
  { s with mem := s.powerOnWords.flatMap fun p => Memory.cellsOf (straps.controlBase + p.1) p.2 }

/-- The machine right after reset, with the pins of Config (log 1). -/
def State.reset : State :=
  State.powerOn (Straps.latch Config.dramPins Config.twoLines Config.guardForced)

end Sys2Proof.Machine
end

