-- ==== Sys2Proof/Machine/BandCode.lean ====
section
/-! DEFINITION. The band code of chapter 2: how the capture coder writes a line (R37 to R39) and how the
render decoder reads a page (R40 to R42). A line is the list of its pixels, black `true`. -/

namespace Sys2Proof.Machine

def whiteLine (w : Nat) : List Bool := List.replicate w false

/-! ## Coding (R37, R38) -/

/-- The binary digits of a number, most significant first, with fuel for the digits. -/
def binaryDigits : Nat → Nat → List Bool
  | 0, _ => []
  | fuel + 1, v => if v = 0 then [] else binaryDigits fuel (v / 2) ++ [decide (v % 2 = 1)]

/-- The G code of `v` (R38): n − 1 zero bits, then v + 1 in its n binary digits. -/
def gCode (v : Nat) : List Bool :=
  let d := binaryDigits (v + 1) (v + 1)
  List.replicate (d.length - 1) false ++ d

/-- The runs of a line, alternating in colour, the first of the colour given and perhaps 0. -/
def runsFrom (colour : Bool) (count : Nat) : List Bool → List Nat
  | [] => [count]
  | p :: ps => if p = colour then runsFrom colour (count + 1) ps else count :: runsFrom p 1 ps

/-- The run code of a line (R38). -/
def runCode (line : List Bool) : List Bool :=
  match runsFrom false 0 line with
  | [] => []
  | first :: later => gCode first ++ later.flatMap fun b => gCode (b - 1)

/-- The token of a line against its reference (R37): BLANK, REPEAT, RUNS or RAW, the first that fits. -/
def lineToken (reference line : List Bool) : List Bool :=
  if line.all (· == false) then [false, false]
  else if line = reference then [false, true]
  else if (runCode line).length ≤ line.length then [true, false] ++ runCode line
  else [true, true, false] ++ line

/-- R27, R37: a lost line is coded REPEAT whatever its reference. -/
def repeatToken : List Bool := [false, true]

/-- R37. -/
def endToken : List Bool := [true, true, true]

/-! ## Reading (R40 to R42) -/

/-- A G code read from a bit on: its value and the bit after it; `none` when it is damaged or the code
ends first (R40, R42). `z` zero bits have been counted; twelve or more stop the reading. -/
def readZeros (bit : Nat → Option Bool) : Nat → Nat → Nat → Option (Nat × Nat)
  | 0, _, _ => none
  | fuel + 1, z, pos =>
    match bit pos with
    | none => none
    | some true => some (z, pos + 1)
    | some false => readZeros bit fuel (z + 1) (pos + 1)

/-- `n` bits from a position, most significant first, after the leading part `acc`. -/
def readNumber (bit : Nat → Option Bool) : Nat → Nat → Nat → Option Nat
  | 0, _, acc => some acc
  | n + 1, pos, acc =>
    match bit pos with
    | none => none
    | some b => readNumber bit n (pos + 1) (2 * acc + b.toNat)

/-- R40: the value of the G code at a position, and the position after it. At most 11 zero bits lead a
G code, so the twelfth stops the reading (R42). -/
def readG (bit : Nat → Option Bool) (pos : Nat) : Option (Nat × Nat) :=
  match readZeros bit 12 0 pos with
  | none => none
  | some (z, p) => (readNumber bit z p 1).map fun v => (v - 1, p + z)

/-- What reading one line gives. -/
structure ReadLine where
  line : List Bool
  pos : Nat
  stopped : Bool
  damaged : Bool
deriving DecidableEq, Repr

/-- R42: reading stops; the line is white, and so is every line after it. -/
def ReadLine.stop (w pos : Nat) : ReadLine := { line := whiteLine w, pos := pos, stopped := true, damaged := true }

/-- The runs of a RUNS token (R41), with fuel for the runs; `acc` is the line so far, `first` says that
the run to come is the first. -/
def readRuns (bit : Nat → Option Bool) (w : Nat) : Nat → Bool → Bool → List Bool → Nat → ReadLine
  | 0, _, _, _, pos => ReadLine.stop w pos
  | fuel + 1, first, colour, acc, pos =>
    match readG bit pos with
    | none => ReadLine.stop w pos
    | some (v, p) =>
      let run := if first then v else v + 1
      let line := acc ++ List.replicate run colour
      if line.length < w then readRuns bit w fuel false (!colour) line p
      else { line := line.take w, pos := p, stopped := false, damaged := decide (w < line.length) }

/-- `n` pixels of a RAW token. -/
def readPixels (bit : Nat → Option Bool) : Nat → Nat → Option (List Bool)
  | 0, _ => some []
  | n + 1, pos =>
    match bit pos with
    | none => none
    | some b => (readPixels bit n (pos + 1)).map (b :: ·)

/-- One token from a position (R40): the line produced. -/
def readLine (bit : Nat → Option Bool) (w : Nat) (reference : List Bool) (pos : Nat) : ReadLine :=
  match bit pos, bit (pos + 1) with
  | some false, some false => { line := whiteLine w, pos := pos + 2, stopped := false, damaged := false }
  | some false, some true => { line := reference, pos := pos + 2, stopped := false, damaged := false }
  | some true, some false => readRuns bit w (w + 2) true false [] (pos + 2)
  | some true, some true =>
    match bit (pos + 2) with
    | some false =>
      match readPixels bit w (pos + 3) with
      | some line => { line := line, pos := pos + 3 + w, stopped := false, damaged := false }
      | none => ReadLine.stop w pos
    | _ => ReadLine.stop w pos
  | _, _ => ReadLine.stop w pos

/-- The check after the last line: the next token is END (R40, R42). -/
def readsEnd (bit : Nat → Option Bool) (pos : Nat) : Bool :=
  bit pos == some true && bit (pos + 1) == some true && bit (pos + 2) == some true

/-! ## Placement (R51) -/

/-- A decoded line in the pixels of a render slot. -/
def placeLine (rw : Nat) (line : List Bool) : List Bool :=
  if line.length < rw then
    whiteLine ((rw - line.length) / 2) ++ line ++ whiteLine ((rw - line.length) / 2)
  else (line.drop ((line.length - rw) / 2)).take rw

/-! ## Lines in slots (R23, R51) -/

/-- The pixels of slot bytes. -/
def pixelsOf (bytes : List Byte) : List Bool := bytes.flatMap bitsOfByte

/-- Slot bytes at their addresses. -/
def bytesAt (addr : Nat) (bytes : List Byte) : List ByteWrite := bytes.zipIdx.map fun p => (addr + p.2, p.1)

end Sys2Proof.Machine
end

