-- ==== Sys2Proof/Machine/Ops.lean ====
section
/-! DEFINITION. The operations that blocks share: the main clock, the posting list (R176), the report
unit's posting of a report (R185), the taking and ending of a command (R182, R183), access to lines,
pages and code bytes, and the requests of the DRAM port (R178). -/

namespace Sys2Proof.Machine

/-! ## The main clock -/

/-- The event a timer brings is taken at the instant the timer runs out: the main clock stands there, or
later (log 4). A timer that is not running moves nothing. -/
def State.reach (t : Option Nat) (s : State) : State :=
  match t with
  | some d => { s with clock := { s.clock with now := max s.clock.now d } }
  | none => s

/-- An instant `d` from now. -/
def State.after (s : State) (d : Nat) : Option Nat := some (s.clock.now + d)

/-! ## Lines, sessions, engines -/

/-- Line A is always fitted; line B when the strap is 2 (chapter 4). -/
def State.fitted (s : State) : Line → Bool
  | .A => true
  | .B => decide (s.path.straps.linesFitted = 2)

def State.line (s : State) (l : Line) : LineUnit := s.lines.get l
def State.setLine (s : State) (l : Line) (u : LineUnit) : State := { s with lines := s.lines.set l u }
def State.session (s : State) (l : Line) : Session := s.sessions.get l
def State.setSession (s : State) (l : Line) (x : Session) : State := { s with sessions := s.sessions.set l x }

/-- R64: at least one line is off-hook. -/
def State.anyOffHook (s : State) : Bool := s.lines.a.hook || s.lines.b.hook

/-! ## The posting list (R176) -/

/-- The clock record's words, in DRAM words. -/
def State.isClockWord (s : State) (w : Nat) : Bool :=
  decide (s.path.straps.controlBase + clockPlace ≤ w) && decide (w < s.path.straps.controlBase + clockPlace + 4)

/-- Consecutive words of DRAM, as one read brings them. -/
def State.wordsAt (s : State) (w count : Nat) : List Word := (List.range count).map fun i => Memory.readWord s.mem (w + i)

/-- Words with their word numbers, the first at `w`. -/
def wordsFrom (w : Nat) (ws : List Word) : List (Nat × Word) := ws.zipIdx.map fun p => (w + p.2, p.1)

/-- One item is made at the DRAM port. A posting reaches DRAM, and one of the clock record sets the moved
state of an open read (R162). A read hands its words to the block that asked (R176): those of an entry stand with the
command unit (R182), and those of the tariff and the timetable stand for the event that waits for them (log 10). -/
def State.deliver (s : State) : PostItem → State
  | .write w v =>
    { s with mem := Memory.writeWord s.mem w v,
             clock := { s.clock with moved := s.clock.moved || (s.clock.readOpen && s.isClockWord w) } }
  | .read w n .command => { s with command := { s.command with fetched := some (s.wordsAt w n) } }
  | .read w n .charge => { s with path := { s.path with heard := wordsFrom w (s.wordsAt w n) ++ s.path.heard } }
  | .read w n .clock => { s with path := { s.path with heard := wordsFrom w (s.wordsAt w n) ++ s.path.heard } }

/-- Items that wait join the list in order, as far as it has room (R176). -/
def Path.fill (p : Path) : Path :=
  let room := Config.postingRoom - p.postings.length
  { p with postings := p.postings ++ p.waiting.take room, waiting := p.waiting.drop room }

/-- The items that the poster has still to hand to DRAM, in order: those of the list, and those that stand behind a full
one. -/
def Path.items (p : Path) : List PostItem := p.postings ++ p.waiting

/-- The access of the item at the head of the poster's list: the item leaves the list, and with it the poster's
request, so that the next item waits afresh (R179, log 13). -/
def State.handHead (s : State) : State :=
  match s.path.postings with
  | [] => s
  | item :: rest =>
    ({ s with path := ({ s.path with
        postings := rest, headHanded := false, requests := { s.path.requests with poster := none } } : Path).fill } :
      State).deliver item

/-- A read that an event waits for (R176). -/
def PostItem.isEventRead : PostItem → Bool
  | .write _ _ => false
  | .read _ _ .command => false
  | .read _ _ .charge => true
  | .read _ _ .clock => true

def PostItem.isFor (w : Nat) : PostItem → Bool
  | .write w' _ => w' == w
  | .read _ _ _ => false

/-- The items not yet handed to the DRAM port. -/
def Path.unhanded (p : Path) : List PostItem :=
  (if p.headHanded then p.postings.drop 1 else p.postings) ++ p.waiting

/-- The item with its value replaced when it is a posting of the word. -/
def PostItem.replacedBy (w : Nat) (v : Word) (item : PostItem) : PostItem := if item.isFor w then .write w v else item

/-- Replace the posting of a word among the items not yet handed. -/
def Path.replacing (p : Path) (w : Nat) (v : Word) : Path :=
  let sub := List.map (PostItem.replacedBy w v)
  { p with
    postings := if p.headHanded then p.postings.take 1 ++ sub (p.postings.drop 1) else sub p.postings
    waiting := sub p.waiting }

/-- An item joins the tail of the list. An event with items to add waits until the list has room for them
(`State.awaitRoom`); what one event adds beyond the whole of the list, and reads asked while it is full, stand behind it
until there is room (log 9). -/
def State.addItem (s : State) (item : PostItem) : State :=
  { s with path := ({ s.path with waiting := s.path.waiting ++ [item] } : Path).fill }

/-- An event asks for its reads (R176), each one access of its words by their offset from C. -/
def State.askReads (s : State) (asker : Asker) (reads : List (Nat × Nat)) : State :=
  reads.foldl (fun s r => s.addItem (.read (s.path.straps.controlBase + r.1) r.2 asker)) s

/-- Post one word of DRAM, by word number. A posting of the word that still waits takes the new value in its place
(R176), so the word can reach DRAM ahead of others of the event (log 32). -/
def State.postWord (s : State) (w : Nat) (v : Word) : State :=
  if s.path.unhanded.any (PostItem.isFor w) then { s with path := s.path.replacing w v }
  else s.addItem (.write w v)

/-- Post the word at an offset from C. -/
def State.post (s : State) (place : Nat) (v : Word) : State := s.postWord (s.path.straps.controlBase + place) v

/-- Post consecutive words, in order. -/
def State.postAll (s : State) (place : Nat) (ws : List Word) : State :=
  (placed place ws).foldl (fun s p => s.post p.1 p.2) s

/-- The word of the control area in DRAM. -/
def State.controlWord (s : State) (place : Nat) : Word := Memory.readWord s.mem (s.path.straps.controlBase + place)

/-- A word of the tariff or of the timetable as the event that acts on it has it: as its read has brought it (R176). -/
def State.tableWord (s : State) (place : Nat) : Word :=
  (s.path.heard.lookup (s.path.straps.controlBase + place)).getD (s.controlWord place)

/-- The event that waited for its reads has been taken. -/
def State.endReads (s : State) : State := { s with path := { s.path with heard := [] } }

/-- The posting of a word that stands last in a list of items. -/
def lastPosted (w : Nat) : List PostItem → Option Word
  | [] => none
  | .write w' v :: rest => (lastPosted w rest).or (if w' = w then some v else none)
  | .read _ _ _ :: rest => lastPosted w rest

/-- The value that a word of DRAM has once the items posted by now have been handed: what the part has
posted in it last, or what DRAM holds. -/
def State.settledWord (s : State) (w : Nat) : Word :=
  (lastPosted w s.path.items).getD (Memory.readWord s.mem w)

/-- The same, by offset from C. -/
def State.settledAt (s : State) (place : Nat) : Word := s.settledWord (s.path.straps.controlBase + place)

/-! ## Postings of the status record -/

def State.postPathStatus (s : State) : State :=
  ((s.post statusPlace (statusPath s.path)).post (statusPlace + 1) (statusBases s.path)).post (statusPlace + 2)
    (statusRenderBase s.path)
def State.postStore (s : State) : State := s.post (statusPlace + 3) (statusStore s.store)
def State.postRender (s : State) : State := s.post (statusPlace + 4) (statusRender s.render)
def State.postLine (s : State) (l : Line) : State := s.post (statusPlace + 5 + lineCode l) (statusLine (s.line l))
def State.postSettings (s : State) (l : Line) : State :=
  s.post (statusPlace + 7 + lineCode l) (statusSettings (s.line l).settings)
def State.postSession (s : State) (l : Line) : State := s.post (statusPlace + 9 + lineCode l) (statusSession (s.session l))
def State.postDispatch (s : State) : State := s.post (statusPlace + 11) (statusDispatch s.dispatch)
def State.postLog (s : State) : State := s.post (statusPlace + 12) (statusLog s.charge)
def State.postTariff (s : State) : State := s.post (statusPlace + 13) (statusTariff s.charge)
def State.postCommand (s : State) : State := s.post (statusPlace + 14) (statusCommand s.command)
def State.postReport (s : State) : State := s.post (statusPlace + 15) (statusReport s.report)
def State.postGuard (s : State) : State := s.post (statusPlace + 16) (statusGuard s.guard)
def State.postStationId (s : State) : State := s.postAll (statusPlace + 17) (idWords (some s.stationId))
def State.postClock (s : State) : State := s.postAll clockPlace (clockWords s.clock)

/-! ## Reports (R185) -/

/-- The report sequence counter after `n` (R185), and likewise the call and submit sequence counters
(R138, R116). -/
def nextSequence (n : Nat) : Nat := if n = 4294967295 then 1 else n + 1

/-- A report is written into the ring, or dropped with OVERFLOW; either takes its sequence number. -/
def State.writeReport (s : State) (r : Report) : State :=
  let rep := { s.report with sequence := nextSequence s.report.sequence }
  if s.report.unconsumed < Config.reportSlots then
    let rep := { rep with
      producer := rep.producer + 1
      pulse := if rep.mode = .pulse then s.after Config.attnPulse else rep.pulse }
    let place := reportPlace (s.report.producer.toNat % Config.reportSlots)
    let s' := { s with report := rep }
    ((s'.postAll place (reportWords s.report.sequence s.clock.uptime s.clock.calendar r)).post reportProducerPlace
      (pack [⟨rep.producer.toNat, 0, 16⟩])).postReport
  else ({ s with report := { rep with overflow := true } } : State).postReport

/-- A report handed to the report unit: nothing happens when its class is masked (R185). -/
def State.handReport (s : State) (r : Report) : State :=
  if s.report.mask.getLsbD r.kind.cls then s.writeReport r else s

/-! ## Taking and ending a command (R182, R183) -/

/-- Ask for the entry at the consumer index, when one is pending, none is in progress and no read is
asked. -/
def State.askEntry (s : State) : State :=
  if 0 < s.command.pendingCount ∧ s.command.inProgress = none ∧ s.command.readAsked = false then
    ({ s with command := { s.command with readAsked := true, withdrawn := false } } : State).addItem
      (.read (s.path.straps.controlBase + entryPlace (s.command.consumer.toNat % 16)) 8 .command)
  else s

/-- The read of a command entry. -/
def PostItem.isEntryRead : PostItem → Bool
  | .read _ _ .command => true
  | _ => false

/-- The read of an entry stands at the head of the list. -/
def Path.entryReadFirst (p : Path) : Bool := (p.postings.head?.map PostItem.isEntryRead).getD false

/-- The read of an entry asked and not yet answered leaves the list, and the port when it stood there. The request of the
poster stays for the item that is then at the head (R175, R184). -/
def State.dropEntryRead (s : State) : State :=
  let p := s.path
  { s with path := ({ p with
      postings := p.postings.filter fun i => !i.isEntryRead
      waiting := p.waiting.filter fun i => !i.isEntryRead
      headHanded := p.headHanded && !p.entryReadFirst } : Path).fill }

/-- The row of a command, or of its discarded read, brings the data of the read that was asked: no access is left to
make for it, and a read at the head takes the poster's request with it (log 7). -/
def State.readArrives (s : State) : State :=
  let first := s.path.entryReadFirst
  let s := s.dropEntryRead
  let s := if first then { s with path := { s.path with requests := { s.path.requests with poster := none } } } else s
  { s with command := { s.command with readAsked := false, withdrawn := false, fetched := none } }

/-- An entry becomes the entry in progress. An entry given while none is pending stands for its whole
delivery, so the producer index takes it in (log 7). -/
def State.beginEntry (s : State) (kind : Byte) (tag : Tag) : State :=
  let s := if s.command.readAsked then s.readArrives else s
  let c := s.command
  { s with command := { c with
      producer := if c.pendingCount = 0 then c.consumer + 1 else c.producer
      inProgress := some ⟨kind, tag⟩ } }

/-- R183: result word, status word with the tag, status record word; then the next entry is asked for. -/
def State.endCommand (s : State) (a : Answer) : State :=
  let place := entryPlace (s.command.consumer.toNat % 16)
  let tag : Tag := match s.command.inProgress with
    | some p => p.tag
    | none => 0
  let s := s.post (place + 6) a.result
  let s := s.post (place + 7) (pack [⟨a.code, 0, 8⟩, ⟨tag.toNat, 16, 16⟩])
  let s := { s with command := { s.command with consumer := s.command.consumer + 1, inProgress := none } }
  s.postCommand.askEntry

/-- A command row: the entry is taken and its owner acts; `none` leaves the entry in progress (R182). R181, R183 and R184
post status word 14 at a producer write, at a command's end and at a reset, and no rule says that it is posted at the taking:
the model posts nothing there, so its in-progress bit is not shown then (DESIGN CHOICE, log 36). An
entry given while another is in progress is not taken, and one whose read was withdrawn is discarded with the data of
that read, after which the unit asks anew (log 18). -/
def State.takeCommand (s : State) (kind : Nat) (tag : Tag) (act : State → State × Option Answer) : State :=
  if s.command.inProgress.isSome then s
  else if s.command.withdrawn then s.readArrives.askEntry
  else
    match act (s.beginEntry (BitVec.ofNat 8 kind) tag) with
    | (s, some a) => s.endCommand a
    | (s, none) => s

/-- A refused command changes nothing in its owner. -/
def State.refuse (s : State) (code : CommandRefusal) : State × Option Answer := (s, some (.refused code))

/-- DONE with a result word. -/
def State.done (s : State) (result : Nat) : State × Option Answer := (s, some (.done (BitVec.ofNat 32 result)))

/-! ## The page table -/

def PageTable.get (t : PageTable) (n : Nat) : Option Page := if n = 0 then none else (t[n - 1]?).join

def PageTable.put (t : PageTable) (n : Nat) (x : Option Page) : PageTable :=
  if n = 0 then t else t.setIfInBounds (n - 1) x

def State.page (s : State) (n : Nat) : Option Page := s.store.pages.get n

/-- The record when it is COMPLETE. -/
def State.completePage (s : State) (n : Nat) : Option Page := (s.page n).filter (·.complete)

/-- The lowest FREE record number (R10); `none` when the table is full. -/
def PageTable.lowestFree (t : PageTable) : Option Nat := (t.toList.findIdx? Option.isNone).map (· + 1)

def State.postPage (s : State) (n : Nat) : State := s.postAll (pagePlace n) (pageWords (s.page n))

def State.setPage (s : State) (n : Nat) (p : Option Page) : State :=
  { s with store := { s.store with pages := s.store.pages.put n p } }

/-- DRAM address of code byte `k` of a page (R17). -/
def State.codeAddr (s : State) (p : Page) (k : Nat) : Nat :=
  (match s.path.regions with
   | some r => r.storeBase
   | none => 0) + p.chain.getD (k / Config.blockBytes) 0 * Config.blockBytes + k % Config.blockBytes

/-- The link that the block link table holds for a block (R3): the block that follows it in its chain, or
END (`some none`); `none` when the block is in no chain. -/
def linkIn : List Nat → Nat → Option (Option Nat)
  | [], _ => none
  | [b], x => if b = x then some none else none
  | b :: c :: rest, x => if b = x then some (some c) else linkIn (c :: rest) x

def State.blockLink (s : State) (b : Nat) : Option (Option Nat) :=
  (linkIn s.store.free b).or (s.store.pages.toList.findSome? fun p => p.bind fun p => linkIn p.chain b)

/-! ## The line guard's watch on the lines (R64, R190) -/

/-- The count runs from a full period when the first line goes off-hook, and stops when the last goes
on-hook. A count that has reached 0 by then has expired: its expiry is still to be taken (R81). -/
def State.watchHooks (s : State) : State :=
  let full := s.after (s.guard.period.getD 0 * Config.second)
  let deadline :=
    if s.guard.enable && s.anyOffHook then Option.or s.guard.deadline full
    else s.guard.deadline.filter fun d => decide (d ≤ s.clock.now)
  { s with guard := { s.guard with deadline := deadline } }

/-- The count of the guard in ms (R190): what is left while it runs, the period while it stands. -/
def State.guardCount (s : State) : Nat :=
  match s.guard.deadline with
  | some d => (d - s.clock.now) / Config.ms
  | none => s.guard.period.getD 0 * 1000

/-! ## The engines' accesses and the requests of the DRAM port (R178) -/

/-- How many of the addresses, from the first on, are consecutive and lie below a word number. -/
def runLength (limit : Nat) : List Nat → Nat
  | [] => 0
  | [_] => 1
  | a :: b :: rest => if b = a + 1 ∧ b / 4 < limit then runLength limit (b :: rest) + 1 else 1

/-- How many bytes the first access of an engine's work takes: consecutive ones, in at most 8 words (R178). -/
def accessLength (addrs : List Nat) : Nat := runLength (addrs.headD 0 / 4 + 8) addrs

/-- The bytes that the first access of an engine's writes takes. -/
def firstAccess (ws : List ByteWrite) : List ByteWrite := ws.take (accessLength (ws.map (·.1)))

/-- The session engine of the line has bytes to write or bytes of a DATA frame to read. -/
def Session.wantsPort (x : Session) : Bool := !x.writes.isEmpty || !x.reads.isEmpty

/-- The poster has an item, and none of its own at the port. -/
def Path.posterWants (p : Path) : Bool := !p.postings.isEmpty && !p.headHanded

/-- A request leaves the arbiter: it was granted, or the work it was for is done or dropped (R179, R56). -/
def Requests.leave (r : Requests) : Requester → Requests
  | .bus => { r with bus := .none }
  | .coder => { r with coder := .none }
  | .decoder => { r with decoder := .none }
  | .sessionA => { r with sessionA := .none }
  | .sessionB => { r with sessionB := .none }
  | .poster => { r with poster := .none }

/-- The work that a requester's request was for is done or dropped: its next request waits afresh (R179). -/
def State.leavePort (s : State) (r : Requester) : State :=
  { s with path := { s.path with requests := s.path.requests.leave r } }

def sessionRequester : Line → Requester
  | .A => .sessionA
  | .B => .sessionB

/-- The first byte of capture slot `i` (R23). -/
def State.captureSlotAddr (s : State) (i : Nat) : Nat :=
  (match s.path.regions with
   | some r => r.captureBase
   | none => 0) + 320 * (i % 8)

/-- The bytes of the slot line to be taken next that the coder has still to read (R27). -/
def State.lineAhead (s : State) : List Nat :=
  let c := s.coder
  if c.state == .opened && c.asked.isNone && c.slots[c.nextLine % 8]'(Nat.mod_lt _ (by decide)) == .pending c.nextLine then
    (List.range' c.got (c.width.getD 0 / 8 - c.got)).map (s.captureSlotAddr c.nextLine + ·)
  else []

/-- The coder has code to write or a slot line to read. -/
def State.coderWants (s : State) : Bool := !s.coder.writes.isEmpty || !s.lineAhead.isEmpty

/-- Bit `pos` of a page's code (R17, R40); none at or beyond bit 8 × code bytes (R42). -/
def State.codeBit (s : State) (p : Page) (pos : Nat) : Option Bool :=
  if pos < 8 * p.codeBytes then some ((Memory.read s.mem (s.codeAddr p (pos / 8))).getLsbD (7 - pos % 8)) else none

/-- The decoder is at work on a line that it has not produced yet (R50). -/
def Render.decoding (r : Render) : Bool :=
  r.rendering && decide (r.nextLine < r.lineCount) && !r.produced && r.writing.isNone

/-- The bit after those that the decoder reads for the next line: its token, and END after the last line; where reading
stops, as much as the longest token takes (log 13). -/
def State.codeEndsAt (s : State) (p : Page) : Nat :=
  let r := s.render
  let out := readLine (s.codeBit p) p.width r.reference r.codePos
  out.pos + (if out.stopped then 3 + p.width else if r.nextLine + 1 = r.lineCount then 3 else 0)

/-- The code bytes of the next line that the decoder has still to read (R50); none once reading has stopped (R42). -/
def State.codeAhead (s : State) : List Nat :=
  let r := s.render
  match s.page r.page with
  | none => []
  | some p =>
    if r.decoding && !r.stopped then
      let first := r.codePos / 8 + r.got
      (List.range' first (min p.codeBytes ((s.codeEndsAt p + 7) / 8) - first)).map (s.codeAddr p)
    else []

/-- The decoder has a slot line to write or code to read. -/
def State.decoderWants (s : State) : Bool := !s.render.writes.isEmpty || !s.codeAhead.isEmpty

/-- A request waits from the instant it is made; a requester with no more work asks for nothing. -/
def request (wants : Bool) (now : Nat) (old : Option Nat) : Option Nat :=
  if wants then old.or (some now) else none

/-- The end of every event: each engine with work has a request waiting at the port (R178). When the poster asks for
its next item is open; the model asks in the event that completes the access before it (log 13). -/
def State.askPort (s : State) : State :=
  let r := s.path.requests
  { s with path := { s.path with requests := { r with
      coder := request s.coderWants s.clock.now r.coder
      decoder := request s.decoderWants s.clock.now r.decoder
      sessionA := request s.sessions.a.wantsPort s.clock.now r.sessionA
      sessionB := request s.sessions.b.wantsPort s.clock.now r.sessionB
      poster := request s.path.posterWants s.clock.now r.poster } } }

/-- What a step answers: the event's state with the requests of the port brought up to date. -/
def State.settle (s : State) : Host.Outcome State Fault Refusal := .next s.askPort

end Sys2Proof.Machine
end

