-- ==== Sys2Proof/Machine/Store.lean ====
section
/-! DEFINITION. Chapter 1, the page store: creation, allocation, completion, holds, freeing, and the
commands KEEP_PAGE, RELEASE_PAGE and SET_RESERVE. -/

namespace Sys2Proof.Machine

/-- A page leaves the store: its blocks join the tail of the free chain in chain order and its record
becomes FREE (R4, R13, R15). -/
def State.freePage (s : State) (n : Nat) : State :=
  match s.page n with
  | none => s
  | some p =>
    (({ s with store := { s.store with free := s.store.free ++ p.chain, pages := s.store.pages.put n none } } : State).postPage
      n).postStore

/-- A FILLING page is given up (R13). -/
def State.abortPage (s : State) (n : Nat) : State := s.freePage n

/-- A change of a page's fields, posted (R20). -/
def State.changePage (s : State) (n : Nat) (f : Page → Page) : State :=
  match s.page n with
  | none => s
  | some p => (s.setPage n (some (f p))).postPage n

/-- After an event that clears a hold: the page is freed when its three holds are 0, else posted (R14,
R15). -/
def State.clearHold (s : State) (n : Nat) (f : Page → Page) : State :=
  match s.page n with
  | none => s
  | some p =>
    let q := f p
    let s := s.setPage n (some q)
    if q.sendHold || q.printHold || q.keepHold then s.postPage n else s.freePage n

/-- A new page record at the lowest FREE number (R10); the caller has seen that the table is not full. -/
def State.createPage (s : State) (n : Nat) (p : Page) : State := (s.setPage n (some p)).postPage n

/-- `k` blocks leave the free chain at its head and join the page's chain (R7, R8). -/
def State.giveBlocks (s : State) (n k : Nat) : State :=
  match s.page n with
  | none => s
  | some p =>
    let p' := { p with chain := p.chain ++ s.store.free.take k }
    (({ s with store := { s.store with free := s.store.free.drop k, pages := s.store.pages.put n (some p') } } : State).postPage
      n).postStore

/-- What a session engine's IDENT tells (R21, R87). -/
def State.roomForPages (s : State) : Bool := decide (8 ≤ s.store.free.length) && s.store.pages.lowestFree.isSome

/-! ## Commands -/

/-- R18. -/
def keepPage (page : Word) (s : State) : State × Option Answer :=
  match s.completePage page.toNat with
  | none => s.refuse .noSuch
  | some p =>
    (if p.keepHold then s else s.changePage page.toNat fun p => { p with keepHold := true }).done 0

/-- R19. -/
def releasePage (page : Word) (s : State) : State × Option Answer :=
  match s.completePage page.toNat with
  | none => s.refuse .noSuch
  | some p =>
    if p.keepHold then
      (s.clearHold page.toNat fun p => { p with keepHold := false }).done (if p.sendHold || p.printHold then 0 else 1)
    else s.done 0

/-- R6: the least of the value given, 255 and half the store total. -/
def clampReserve (n total : Nat) : Nat := min n (min 255 (total / 2))

/-- R6. -/
def setReserve (n : Word) (s : State) : State × Option Answer :=
  let r := clampReserve n.toNat s.store.total
  (if r = s.store.reserve then s else ({ s with store := { s.store with reserve := r } } : State).postStore).done r

def keepPageEvent (tag : Tag) (page : Word) (s : State) : State := s.takeCommand 4 tag (keepPage page)

def releasePageEvent (tag : Tag) (page : Word) (s : State) : State := s.takeCommand 5 tag (releasePage page)

def setReserveEvent (tag : Tag) (n : Word) (s : State) : State := s.takeCommand 6 tag (setReserve n)

/-! ## Receive allocation (R8, R95, R96) is in Session.lean; capture allocation (R7) in Capture.lean. -/

end Sys2Proof.Machine
end

