-- ==== Sys2Proof/Machine/JobTable.lean ====
section
/-! DEFINITION. Chapter 6: the job table's records and their postings, the settlement of a recipient at
the end of its call (R128) and the finish of a job (R130). -/

namespace Sys2Proof.Machine

def JobTable.get (t : JobTable) (j : Nat) : Option Job := if j = 0 then none else (t[j - 1]?).join

def JobTable.put (t : JobTable) (j : Nat) (x : Option Job) : JobTable :=
  if j = 0 then t else t.setIfInBounds (j - 1) x

/-- R111: the lowest free number. -/
def JobTable.lowestFree (t : JobTable) : Option Nat := (t.toList.findIdx? Option.isNone).map (· + 1)

def State.job (s : State) (j : Nat) : Option Job := s.dispatch.jobs.get j

def State.setJob (s : State) (j : Nat) (x : Option Job) : State :=
  { s with dispatch := { s.dispatch with jobs := s.dispatch.jobs.put j x } }

def State.postJob (s : State) (j : Nat) : State := s.postAll (jobHeaderPlace j) (jobWords (s.job j))

def State.recipient (s : State) (j i : Nat) : Option Recipient := (s.job j).bind fun x => x.recipients[i]?

def State.postRecipient (s : State) (j i : Nat) : State :=
  match s.recipient j i with
  | some r => s.postAll (recipientRecordPlace j i) (recipientWords r)
  | none => s

/-- The recipients changed, each by its place in the list. -/
def Job.mapRecipients (x : Job) (f : Recipient → Recipient) : Job := { x with recipients := x.recipients.map f }

def State.setRecipient (s : State) (j i : Nat) (r : Recipient) : State :=
  match s.job j with
  | some x => s.setJob j (some { x with recipients := x.recipients.set i r })
  | none => s

/-- A change of a job record, posted (R132). -/
def State.changeJob (s : State) (j : Nat) (f : Job → Job) : State :=
  match s.job j with
  | some x => (s.setJob j (some (f x))).postJob j
  | none => s

/-- WAITING or ON_LINE: still to be settled. -/
def RecipientState.unsettled : RecipientState → Bool
  | .waiting | .onLine => true
  | .done | .failed | .cancelled => false

def Job.hasUnsettled (x : Job) : Bool := x.recipients.any fun r => r.state.unsettled

/-- R130. -/
def State.finishJob (s : State) (j : Nat) : State :=
  match s.job j with
  | none => s
  | some x =>
    let s := s.setJob j (some { x with state := .finished, pageList := [] })
    let s := x.pageList.foldl (fun s n => s.clearHold n fun p => { p with sendHold := false, job := 0 }) s
    (s.postJob j).handReport { kind := .jobFinished, job := j, value1 := some x.done, value2 := some x.failed }

/-- R130: the job finishes in the event that leaves it nothing to settle. -/
def State.finishIfSettled (s : State) (j : Nat) : State :=
  match s.job j with
  | none => s
  | some x => if x.hasUnsettled then s else s.finishJob j

/-- The job's count of a terminal state rises by 1 (R128). -/
def Job.countOutcome (x : Job) : RecipientState → Job
  | .done => { x with done := x.done + 1 }
  | .failed => { x with failed := x.failed + 1 }
  | .cancelled => { x with cancelled := x.cancelled + 1 }
  | .waiting | .onLine => x

/-- The outcome that a cause gives by itself (R128, the table). -/
inductive CauseOutcome
  | done | cancelled | tryAgain | fail | noAttempt
deriving DecidableEq, Repr

/-- R128; the causes that no call ends with fail the recipient. -/
def Cause.outcome : Cause → CauseOutcome
  | .completed => .done
  | .cancelled => .cancelled
  | .busy | .noAnswer | .noDialTone | .noResponse | .trainFail | .lineQuality | .carrierLost | .remoteFull | .hungUp => .tryAgain
  | .faultTone | .remoteRefused | .protocol => .fail
  | .glare | .guard | .reset => .noAttempt
  | .barred | .deskLimit | .powerOn | .hostReset => .fail

/-- R128: the recipient after its call has ended at the uptime given. -/
def Recipient.settle (r : Recipient) (x : Job) (cause : Cause) (step uptime : Nat) : Recipient :=
  let r := { r with
    lastCause := some cause
    lastStep := some step
    attempts := if cause.outcome = CauseOutcome.noAttempt then r.attempts - 1 else r.attempts }
  if r.pagesConfirmed = x.pageList.length then { r with state := .done }
  else if r.cancelMark then { r with state := .cancelled }
  else
    match cause.outcome with
    | .done => { r with state := .done }
    | .cancelled => { r with state := .cancelled }
    | .tryAgain =>
      if r.attempts < x.maxAttempts then { r with state := .waiting, nextTry := uptime + x.interval * 60 }
      else { r with state := .failed }
    | .fail => { r with state := .failed }
    | .noAttempt => { r with state := .waiting, nextTry := uptime }

/-- R131: the report of a recipient that has become terminal at a call end. -/
def recipientReport (j i : Nat) (r : Recipient) : Option Report :=
  let rep (kind : ReportKind) (cause : Option Cause) : Report :=
    { kind := kind, job := j, line := r.lastLine, recipient := some i, cause := cause,
      value1 := some r.pagesConfirmed, value2 := some r.attempts }
  match r.state with
  | .done => some (rep .recipientDone r.lastCause)
  | .failed => some (rep .recipientFailed r.lastCause)
  | .cancelled => some (rep .recipientFailed (some .cancelled))
  | .waiting => none
  | .onLine => none

def State.handReportIf (s : State) : Option Report → State
  | some r => s.handReport r
  | none => s

/-- R128: the dispatcher settles the recipient that the line served, and lets go of the line. -/
def State.settleRecipient (s : State) (l : Line) (cause : Cause) (step : Nat) : State :=
  match s.dispatch.serving.get l with
  | none => s
  | some (j, i) =>
    let s : State := { s with dispatch := { s.dispatch with serving := s.dispatch.serving.set l none } }
    match s.job j, s.recipient j i with
    | some x, some r =>
      let r' := r.settle x cause step s.clock.uptime
      let s := (s.setJob j (some (x.countOutcome r'.state))).setRecipient j i r'
      let s := ((s.postRecipient j i).postJob j).postDispatch
      (s.handReportIf (recipientReport j i r')).finishIfSettled j
    | _, _ => s.postDispatch

end Sys2Proof.Machine
end

