-- ==== Sys2Proof/Machine/Render.lean ====
section
/-! DEFINITION. Chapter 3, the render decoder: the print queue, the start and the end of a page, the
placement of a line, and what a read of a render slot does. The commands and the rows of the chapter
that may release a held read are in Printing.lean. -/

namespace Sys2Proof.Machine

/-! ## Damaged code (R42) -/

/-- R42: DAMAGED is set at the first case met on the page, and the record posted with it. -/
def State.markDamaged (s : State) (n : Nat) : State :=
  match s.page n with
  | none => s
  | some p => if p.damaged then s else s.changePage n fun p => { p with damaged := true }

/-- The job that reports of a page name; 0 when it has none. -/
def State.pageJob (s : State) (n : Nat) : Nat :=
  match s.page n with
  | some p => p.job
  | none => 0

/-! ## The context -/

def Render.slot (r : Render) (i : Nat) : RenderSlot := r.slots.getD (i % 8) .noLine
def Render.setSlot (r : Render) (i : Nat) (x : RenderSlot) : Render := { r with slots := r.slots.setIfInBounds (i % 8) x }

/-- The IDLE context (section 3.3); queue, mode and width stay. A line being written is completed into DRAM, and changes
no slot (R56, R57). R46 says that the context returns to IDLE, and not what its other fields then hold: the model sets them
to their power-on values (DESIGN CHOICE, log 37). -/
def Render.toIdle (r : Render) : Render :=
  { Render.powerOn with queue := r.queue, mode := r.mode, width := r.width, writes := r.writes }

/-- R49: slot `i` awaits line `i`, or no line when there is none. -/
def startSlot (lines i : Nat) : RenderSlot := if i < lines then .empty i false else .emptyDone

/-- R49: the context as a page starts. -/
def Render.start (r : Render) (n : Nat) (p : Page) : Render :=
  { r.toIdle with rendering := true, page := n, pageWidth := some p.width, lineCount := p.lineCount,
                  reference := whiteLine p.width, slots := Vector.ofFn fun i => startSlot p.lineCount i }

/-- R46, steps 1 to 4. -/
def State.leaveQueue (s : State) (rep : Report) : State :=
  let n := s.render.queue.headD 0
  let s : State := { s with render := { s.render with queue := s.render.queue.drop 1 } }
  let s := (s.clearHold n fun p => { p with printHold := false }).handReport rep
  ({ s with render := s.render.toIdle } : State).postRender

/-- R58: a page of line count 0 is printed in the event that starts it. -/
def State.printEmpty (s : State) (n : Nat) (p : Page) : State :=
  let s := if readsEnd (s.codeBit p) 0 then s else s.markDamaged n
  s.leaveQueue { kind := .pagePrinted, page := n, job := p.job, value1 := some 0, value2 := some 0 }

/-- R49, with fuel for the pages that may start and end in one event. -/
def State.startPages : Nat → State → State
  | 0, s => s
  | fuel + 1, s =>
    if s.render.rendering || s.render.mode == .hold then s
    else
      match s.render.queue with
      | [] => s
      | n :: _ =>
        match s.page n with
        | none => s
        | some p =>
          let s := ({ s with render := s.render.start n p } : State).postRender
          if p.lineCount = 0 then State.startPages fuel (s.printEmpty n p) else s

/-- R49: the start rule, in whatever event brings its three conditions together. -/
def State.startRendering (s : State) : State := State.startPages s.render.queue.length s

/-- R46. -/
def State.pageLeaves (s : State) (rep : Report) : State := (s.leaveQueue rep).startRendering

/-- R44, R45: a page joins the tail and takes the print hold. -/
def State.joinQueue (s : State) (n : Nat) : State :=
  let s : State := { s with render := { s.render with queue := s.render.queue ++ [n] } }
  ((s.changePage n fun p => { p with printHold := true }).postRender).startRendering

/-- R44: a completion that joins the queue, or takes the keep hold when it holds 64 pages. The page has
just been made COMPLETE. -/
def State.queueOrKeep (s : State) (n : Nat) (line : Option Line) : State :=
  if s.render.queue.length < 64 then s.joinQueue n
  else
    (s.changePage n fun p => { p with keepHold := true }).handReport
      { kind := .printQueueFull, page := n, job := s.pageJob n, line := line, value1 := some s.render.queue.length }

/-- R56, R57: the decoder stops work on the page: a read of its code asked for and not yet taken is dropped. R56 says so of a
page printed and R59 of a host reset. R57 does not say it of END_PRINT, where the model drops the read too, so that the next
page's request waits afresh (DESIGN CHOICE, log 39). -/
def State.stopDecoding (s : State) : State := if s.render.writes.isEmpty then s.leavePort .decoder else s

/-- R56: the slot of the last line has emptied. -/
def State.pagePrinted (s : State) : State :=
  let r := s.render
  s.stopDecoding.pageLeaves
    { kind := .pagePrinted, page := r.page, job := s.pageJob r.page, value1 := some r.lineCount, value2 := some r.underrunLines }

/-! ## The slots (R50 to R54) -/

/-- The first byte of render slot `i`. -/
def State.renderSlotAddr (s : State) (i : Nat) : Nat :=
  (match s.path.regions with
   | some r => r.renderBase
   | none => 0) + 320 * (i % 8)

/-- The table of R50 for the line just produced, which is the reference line. While the slot still awaits line k − 8
the host has not emptied it, and the decoder waits as on a FULL slot. -/
def State.placeProduced (s : State) : State :=
  let r := s.render
  let k := r.nextLine
  let discard : State := { s with render := { r with produced := false, nextLine := k + 1 } }
  let wait : State := { s with render := { r with produced := true } }
  match r.slot k with
  | .full _ => wait
  | .empty j lost =>
    if j < k then wait
    else if j = k ∧ lost = false then
      { s with render := { r with
          produced := false
          writing := some k
          writes := r.writes ++ bytesAt (s.renderSlotAddr k) (splitBytes (placeLine r.width r.reference)).1 } }
    else discard
  | .emptyDone => discard
  | .noLine => discard

/-- A produced line that waits for its slot acts on the slot's new state. -/
def State.retryPlace (s : State) : State := if s.render.produced then s.placeProduced else s

/-- R52: the line `k` of a slot ends. -/
def State.endSlotLine (s : State) (k : Nat) : State :=
  let r := s.render
  let next : RenderSlot := if k + 8 < r.lineCount then .empty (k + 8) false else .emptyDone
  let s : State := { s with render := { r.setSlot k next with linesEnded := r.linesEnded + 1 } }
  if k + 1 = r.lineCount then s.pagePrinted else s.retryPlace

/-- What a read of a word among slot bytes 0 to RW/8 − 1 does (R52, R53). -/
inductive SlotRead
  | passes
  | zero
  | held
deriving DecidableEq, Repr

def RenderSlot.read : RenderSlot → SlotRead
  | .noLine => .passes
  | .empty _ true => .zero
  | .empty _ false => .held
  | .emptyDone => .passes
  | .full _ => .passes

/-- The line that a read of the last word of a slot ends (R52). -/
def RenderSlot.endsLine : RenderSlot → Option Nat
  | .full k => some k
  | .empty k true => some k
  | _ => none

/-- After a word of a slot has been read: the word that holds byte RW/8 − 1 ends the slot's line. -/
def State.afterSlotRead (s : State) (slot word : Nat) : State :=
  if 4 * (word + 1) = s.render.width / 8 then
    match (s.render.slot slot).endsLine with
    | some k => s.endSlotLine k
    | none => s
  else s

/-- R54, the decoder's part: line `j` of the slot is lost to the host, at a read of the word given. R54 does not order
RENDER_UNDERRUN against the PAGE_PRINTED of the same event, nor say whether the count in PAGE_PRINTED has this loss: the
model hands RENDER_UNDERRUN first, and counts it (DESIGN CHOICE, log 33). -/
def State.loseSlotLine (s : State) (slot word : Nat) : State :=
  match s.render.slot slot with
  | .empty j false =>
    let r := s.render
    let s : State := { s with render := { r.setSlot slot (.empty j true) with
      underrunLines := r.underrunLines + 1, underrunReported := true } }
    let s :=
      if r.underrunReported then s
      else s.handReport { kind := .renderUnderrun, page := r.page, job := s.pageJob r.page, value1 := some j }
    s.afterSlotRead slot word
  | _ => s

/-! ## Decoding (R50) -/

/-- The line at the code position is produced: it becomes the reference line (R40 to R42). After line
L − 1 the next token is checked for END. -/
def State.produceLine (s : State) (p : Page) : State :=
  let r := s.render
  let out := if r.stopped then ReadLine.stop p.width r.codePos else readLine (s.codeBit p) p.width r.reference r.codePos
  let s : State := { s with render := { r with reference := out.line, codePos := out.pos, stopped := out.stopped, got := 0 } }
  let s := if out.damaged then s.markDamaged r.page else s
  if r.nextLine + 1 = r.lineCount && !out.stopped && !readsEnd (s.codeBit p) out.pos then s.markDamaged r.page else s

end Sys2Proof.Machine
end

