-- ==== Sys2Proof/Machine/Charge.lean ====
section
/-! DEFINITION. Chapter 7, the charge unit: the tariff reads, the open call records, charges, the desk
table, the call log and the tariff lock. What these definitions read of the tariff area stands as the reads of the event
have brought it: they have been asked for and made before the event is taken (R176; ReadRows.lean). -/

namespace Sys2Proof.Machine

/-! ## The tariff area (R134 to R137) -/

structure PrefixEntry where
  length : Nat
  zone : Nat
  digits : List Nat
deriving DecidableEq, Repr

def State.prefixEntry (s : State) (i : Nat) : PrefixEntry :=
  let w0 := s.tableWord (prefixPlace + 2 * i)
  let w1 := s.tableWord (prefixPlace + 2 * i + 1)
  { length := unpack w0 0 8, zone := unpack w0 8 8,
    digits := nibbles [w0.byte 2, w0.byte 3, w1.byte 0, w1.byte 1, w1.byte 2, w1.byte 3] }

/-- R135: the entry takes part, and the digit string begins with its digits. -/
def PrefixEntry.matches (e : PrefixEntry) (number : List Nat) : Bool :=
  decide (1 ≤ e.length) && decide (e.length ≤ 12) && (e.digits.take e.length).all (fun d => decide (d ≤ 9)) &&
    number.take e.length == e.digits.take e.length

/-- A zone byte above 15 names no zone of the table: which zone it gives is free (log 27). -/
def zoneOfByte (z : Nat) : Nat := if z < 16 then z else (Config.zoneBeyond z).toNat

/-- Of two entries, the first in index order and the next: the longer match, the first when equal. -/
def betterPrefix (number : List Nat) (best : Option PrefixEntry) (e : PrefixEntry) : Option PrefixEntry :=
  if e.matches number then
    match best with
    | none => some e
    | some b => if b.length < e.length then some e else some b
  else best

/-- R135: the zone of a number. -/
def State.zoneOf (s : State) (number : List Symbol) : Nat :=
  let best := ((List.range 64).map s.prefixEntry).foldl (betterPrefix (digitString number)) none
  match best with
  | some e => zoneOfByte e.zone
  | none => 0

/-- The zone table (R134). -/
def State.zoneBarred (s : State) (zone : Nat) : Bool := (s.tableWord (zonePlace + zone)).getLsbD 0

/-- R136: weekday, Saturday, Sunday. -/
def dayType (weekday : Nat) : Nat := if weekday < 5 then 0 else if weekday = 5 then 1 else 2

structure SwitchPoint where
  enable : Bool
  hour : Nat
  minute : Nat
  band : Nat
deriving DecidableEq, Repr

def switchPoint (w : Word) : SwitchPoint :=
  { enable := w.getLsbD 0, hour := unpack w 8 8, minute := unpack w 16 8, band := unpack w 24 2 }

/-- The point takes part and stands at or before the time of day, in seconds. -/
def SwitchPoint.inForce (p : SwitchPoint) (seconds : Nat) : Bool :=
  p.enable && decide (p.hour ≤ 23) && decide (p.minute ≤ 59) && decide (3600 * p.hour + 60 * p.minute ≤ seconds)

/-- The later of two points in force, the first when they stand at the same time. -/
def laterPoint (seconds : Nat) (best : Option SwitchPoint) (p : SwitchPoint) : Option SwitchPoint :=
  if p.inForce seconds then
    match best with
    | none => some p
    | some b => if 60 * b.hour + b.minute < 60 * p.hour + p.minute then some p else some b
  else best

/-- R136: the band at the calendar instant; 0 while the clock is unset. -/
def State.bandNow (s : State) : Nat :=
  let c := s.clock.calendar
  if s.clock.unset then 0
  else
    let points := (List.range 8).map fun i => switchPoint (s.tableWord (bandPlace + 8 * dayType c.weekday + i))
    match points.foldl (laterPoint (3600 * c.hour + 60 * c.minute + c.second)) none with
    | some p => p.band
    | none => 0

structure Rate where
  period : Nat
  unit : Nat
  setup : Nat
deriving DecidableEq, Repr

/-- R137: the rate entry of a zone and a band, its period clamped to 10..36000 tenths. -/
def State.rateOf (s : State) (zone band : Nat) : Rate :=
  let place := ratePlace + 2 * (4 * zone + band)
  let w0 := s.tableWord place
  { period := max 10 (min 36000 (unpack w0 0 16)), unit := unpack w0 16 16, setup := unpack (s.tableWord (place + 1)) 0 16 }

def State.meterPriceOf (s : State) (l : Line) : Nat := unpack (s.tableWord (meterPlace + lineCode l)) 0 16

/-! ## Desks (R144, R146) -/

def State.desk (s : State) (d : Nat) : Desk := s.charge.desks.getD d Desk.powerOn

def State.setDesk (s : State) (d : Nat) (x : Desk) : State :=
  { s with charge := { s.charge with desks := s.charge.desks.setIfInBounds d x } }

def State.postDesk (s : State) (d : Nat) : State := s.postAll (deskRecordPlace d) (deskWords (s.desk d))

/-- At or above an allowance that is not 0 (R124, R143, R146). -/
def Desk.over (d : Desk) : Bool := decide (d.allowance ≠ 0) && decide (d.allowance ≤ d.spent)

/-- R146, with the job and the line of the call whose charge crossed, or neither. -/
def State.crossing (s : State) (d job : Nat) (line : Option Line) : State :=
  let k := s.desk d
  if k.over && !k.overReported then
    ((s.setDesk d { k with overReported := true }).postDesk d).handReport
      { kind := .deskOverAllowance, job := job, line := line, value1 := some d, value2 := some k.spent.toNat }
  else s

/-! ## Open call records (R138) -/

def State.call (s : State) (l : Line) : Option CallRecord := s.charge.calls.get l

def State.setCall (s : State) (l : Line) (c : Option CallRecord) : State :=
  { s with charge := { s.charge with calls := s.charge.calls.set l c } }

def State.postCall (s : State) (l : Line) : State := s.postAll (openPlace l) (callWords (s.call l))

/-- R138: the call record of a seize accepted on a line that the dispatcher serves. -/
def State.openCall (s : State) (l : Line) (job desk recipient : Nat) (number : List Symbol) (metered : Bool) : State :=
  let c : CallRecord :=
    { sequence := s.charge.callSeq, line := l, desk := desk, job := job, recipient := recipient, number := number,
      zone := s.zoneOf number, seizeTime := s.clock.calendar, endTime := none, answerOffset := none, connectedTenths := 0,
      units := 0, pulses := 0, cost := 0, band := none, step := 0, cause := none, metered := metered,
      timeUnset := s.clock.unset, saturated := false, overAllowance := false,
      meterPrice := if metered then s.meterPriceOf l else 0, seizeAt := s.clock.now, answerAt := none, nextDue := none }
  let k := s.desk desk
  let s := s.setCall l (some c)
  let s : State := { s with charge := { s.charge with callSeq := nextSequence s.charge.callSeq } }
  let s := s.setDesk desk { k with calls := min 65535 (k.calls + 1) }
  (((s.postCall l).postDesk desk).postLog).postTariff

/-! ## Charges (R143) -/

/-- A sum that stops at 4294967295. -/
def saturate (n : Nat) : Nat := min n 4294967295

/-- R143: one charge, to the record and to the desk. R143 posts the open call slot and the desk record and does not order
them, nor the crossing report of R146 among them: the model posts the desk record, hands the report, and posts the slot
(DESIGN CHOICE, log 28). -/
def State.addCharge (s : State) (l : Line) (amount : Nat) : State :=
  match s.call l with
  | none => s
  | some c =>
    if amount = 0 then s
    else
      let k := s.desk c.desk
      let k' := { k with spent := BitVec.ofNat 32 (saturate (k.spent.toNat + amount)) }
      let full := decide (4294967295 < c.cost + amount) || decide (4294967295 < k.spent.toNat + amount)
      let c' := { c with
        cost := saturate (c.cost + amount)
        saturated := c.saturated || full
        overAllowance := c.overAllowance || k'.over }
      let s := ((s.setCall l (some c')).setDesk c.desk k').postDesk c.desk
      (s.crossing c.desk c.job (some l)).postCall l

def tenthsBetween (t₀ t₁ : Nat) : Nat := (t₁ - t₀) / Config.tenth

/-- R139; for a METERED record the answer event of R142. -/
def State.answerCharge (s : State) (l : Line) : State :=
  match s.call l with
  | none => s
  | some c =>
    let band := s.bandNow
    let rate := s.rateOf c.zone band
    let c' := { c with
      answerOffset := some (tenthsBetween c.seizeAt s.clock.now)
      answerAt := some s.clock.now
      band := some band
      timeUnset := c.timeUnset || s.clock.unset }
    if c.metered then (s.setCall l (some c')).postCall l
    else
      let due := s.after (rate.period * Config.tenth)
      let s := s.setCall l (some { c' with units := 1, nextDue := due })
      (((s.addCharge l rate.setup).addCharge l rate.unit)).postCall l

/-- R140: a unit due, at its instant. -/
def State.unitCharge (s : State) (l : Line) : State :=
  match s.call l with
  | none => s
  | some c =>
    match c.nextDue with
    | none => s
    | some due =>
      let s := s.reach (some due)
      let rate := s.rateOf c.zone s.bandNow
      let s := s.setCall l (some { c with
        units := min 65535 (c.units + 1)
        nextDue := some (due + rate.period * Config.tenth)
        timeUnset := c.timeUnset || s.clock.unset })
      (s.addCharge l rate.unit).postCall l

/-- R142: the line's count after a meter pulse; `raised` says that the pulse raised it. -/
def State.pulseCharge (s : State) (l : Line) (count : Nat) (raised : Bool) : State :=
  match s.call l with
  | none => s
  | some c =>
    let s := s.setCall l (some { c with pulses := count })
    (if c.metered && raised then s.addCharge l c.meterPrice else s).postCall l

/-! ## The call log (R148 to R150) -/

/-- R149: the record closes with its cause and the step of its session. -/
def State.closeCall (s : State) (l : Line) (cause : Cause) (step : Nat) : State :=
  match s.call l with
  | none => s
  | some c =>
    let c' := { c with
      endTime := some s.clock.calendar
      connectedTenths := match c.answerAt with
        | some t => tenthsBetween t s.clock.now
        | none => 0
      step := step
      cause := some cause
      timeUnset := c.timeUnset || s.clock.unset
      nextDue := none }
    let s := s.postAll (logPlace (s.charge.logProducer.toNat % Config.logSlots)) (callWords (some c'))
    let s := (s.setCall l none).postCall l
    ({ s with charge := { s.charge with logProducer := s.charge.logProducer + 1 } } : State).postLog

/-- The consumer index that an observed write takes (R150, R186): by its distance ahead. -/
def takenConsumer (producer consumer written : BitVec 16) : BitVec 16 :=
  if (written - consumer).toNat ≤ (producer - consumer).toNat then written else producer

/-! ## Observed desk writes (R145) -/

/-- R145: a write of a desk's allowance or spent this month that passes. -/
def State.deskWritten (s : State) (d : Nat) (spent : Bool) (be : BitVec 4) (data : Word) : State :=
  let k := s.desk d
  let k' := if spent then { k with spent := mergeBytes k.spent be data } else { k with allowance := mergeBytes k.allowance be data }
  let s := s.setDesk d k'
  let s := if k' = k then s else s.postDesk d
  let s :=
    if be = 0b1111#4 then s
    else s.post (deskRecordPlace d + spent.toNat) (if spent then k'.spent else k'.allowance)
  s.crossing d 0 none

/-! ## Month close (R147) -/

def Desk.closeMonth (k : Desk) : Desk :=
  { k with spentLast := k.spent, spent := 0, calls := 0, overReported := false }

def State.monthClose (s : State) : State :=
  let s : State := { s with charge := { s.charge with desks := s.charge.desks.map Desk.closeMonth } }
  let s := (List.range 32).foldl (fun s d => s.postDesk d) s
  s.handReport { kind := .monthClosed, value1 := some s.clock.calendar.year, value2 := some s.clock.calendar.month }

/-! ## The tariff lock (R151, R152) -/

/-- R151. -/
def lockTariff (s : State) : State × Option Answer :=
  if s.charge.locked then s.done 1
  else (({ s with charge := { s.charge with locked := true, absorbedReported := false } } : State).postTariff).done 0

/-- R152: the lock absorbed `n` bytes of a write of the word with the number given. -/
def State.lockAbsorbed (s : State) (word n : Nat) : State :=
  if s.charge.absorbedReported || n = 0 then s
  else
    (({ s with charge := { s.charge with absorbedReported := true } } : State).postTariff).handReport
      { kind := .writeAbsorbed, value1 := some (4 * word), value2 := some n }

def lockTariffEvent (tag : Tag) (s : State) : State := s.takeCommand 23 tag lockTariff

end Sys2Proof.Machine
end

