-- ==== Sys2Proof/Machine/Choice.lean ====
section
/-! DEFINITION. Chapter 6, the dispatcher's choice of a recipient with its gates (R122 to R125), the reads of the
tariff that it needs, and the return of room in the call log (R150). -/

namespace Sys2Proof.Machine

/-! ## The choice (R122, R123) -/

/-- R122. -/
def Recipient.eligible (r : Recipient) (x : Job) (uptime : Nat) : Bool :=
  (x.state == .ready || x.state == .active) && r.state == .waiting && decide (r.nextTry ≤ uptime)

/-- The lowest index of an eligible recipient of a job. -/
def Job.firstEligible (x : Job) (uptime : Nat) : Option Nat := x.recipients.findIdx? fun r => r.eligible x uptime

/-- R123: of two jobs with eligible recipients, `x` goes before `y`. -/
def Job.before (x y : Job) : Bool :=
  if x.priority = y.priority then decide (x.submitSeq.getD 0 < y.submitSeq.getD 0) else x.priority == .deadline

/-- The better of the best so far and job `j`. -/
def betterJob (t : JobTable) (uptime : Nat) (best : Option (Nat × Job)) (j : Nat) : Option (Nat × Job) :=
  match t.get j with
  | none => best
  | some x =>
    if (x.firstEligible uptime).isNone then best
    else
      match best with
      | none => some (j, x)
      | some (i, y) => if x.before y then some (j, x) else some (i, y)

/-- R123: the recipient that the order takes. -/
def State.chosen (s : State) : Option (Nat × Nat) :=
  match ((List.range 16).map (· + 1)).foldl (betterJob s.dispatch.jobs s.clock.uptime) none with
  | none => none
  | some (j, x) => (x.firstEligible s.clock.uptime).map fun i => (j, i)

/-- The modes in which a line may be seized (R122). -/
def LineMode.seizes : LineMode → Bool
  | .sendOnly | .both => true
  | .answerOnly | .outOfService => false

/-- R122: a line free for dispatch. -/
def State.freeForDispatch (s : State) (l : Line) : Bool :=
  s.fitted l && (s.line l).state == .idle && (s.line l).settings.mode.seizes && !s.guard.expired

/-- R123: line A if it is free, and otherwise line B. -/
def State.freeLine (s : State) : Option Line :=
  if s.freeForDispatch .A then some .A else if s.freeForDispatch .B then some .B else none

/-! ## The gates (R124, R125) -/

/-- R124: a recipient fails a gate without a call. Its record is posted before the header; R124 gives no order (DESIGN
CHOICE, log 28). -/
def State.failAtGate (s : State) (j i : Nat) (x : Job) (r : Recipient) (cause : Cause) : State :=
  let r' := { r with state := .failed, lastCause := some cause }
  let s := (s.setJob j (some { x with failed := x.failed + 1 })).setRecipient j i r'
  let s := ((s.postRecipient j i).postJob j).handReport
    { kind := .recipientFailed, job := j, recipient := some i, cause := some cause, value1 := some r.pagesConfirmed,
      value2 := some r.attempts }
  s.finishIfSettled j

/-- R125: no room in the call log: LOG_FULL is posted while the flag is clear, and the flag is then set. -/
def State.logIsFull (s : State) (j i : Nat) : State :=
  if s.dispatch.logFull then s
  else
    let s := s.handReport
      { kind := .logFull, job := j, recipient := some i, value1 := some s.charge.unconsumed, value2 := some s.charge.openCount }
    ({ s with dispatch := { s.dispatch with logFull := true } } : State).postDispatch

/-- The two gates of R124: the cause with which the recipient fails. -/
def State.gate (s : State) (x : Job) (r : Recipient) : Option Cause :=
  if s.zoneBarred (s.zoneOf r.number) then some .barred
  else if x.priority = .normal ∧ (s.desk x.desk).over then some .deskLimit
  else none

/-- R123 to R125: the choice for a line, with fuel for the recipients that fail a gate. -/
def State.chooseFor : Nat → Line → State → State
  | 0, _, s => s
  | fuel + 1, l, s =>
    match s.chosen with
    | none => s
    | some (j, i) =>
      match s.job j, s.recipient j i with
      | some x, some r =>
        match s.gate x r with
        | some cause => State.chooseFor fuel l (s.failAtGate j i x r cause)
        | none =>
          if s.charge.room then { s with dispatch := { s.dispatch with asked := some (l, j, i) } }
          else s.logIsFull j i
      | _, _ => s

/-- R123: there is a choice to make: no seize is outstanding (log 16), a line is free, and a recipient eligible. -/
def State.choiceLine (s : State) : Option Line :=
  if s.dispatch.asked.isNone && s.chosen.isSome then s.freeLine else none

/-- R123: the choice, with the tariff as its reads have brought it. -/
def State.chooseNow (s : State) : State :=
  match s.choiceLine with
  | some l => State.chooseFor 512 l s
  | none => s

/-! ## The reads of a choice (R124, R137, R176) -/

/-- The entries of the prefix table, by place and words. -/
def prefixReads : List (Nat × Nat) := (List.range 64).map fun i => (prefixPlace + 2 * i, 2)

/-- The entries that a choice reads: the prefix table for the zones, the zone table for the barred flags. -/
def choiceReads : List (Nat × Nat) := prefixReads ++ (List.range 16).map fun z => (zonePlace + z, 1)

/-! ## Room in the call log (R150) -/

/-- R150: an observed write of the call log consumer index, as the word it makes. When room returns, the log-full
flag is cleared; the choice that this brings is made in the same row (`State.roomReturned`). -/
def State.logConsumerWritten (s : State) (w : Word) : State :=
  let c := s.charge
  let c' := { c with logConsumer := takenConsumer c.logProducer c.logConsumer (w.extractLsb' 0 16) }
  let s := ({ s with charge := c' } : State).postLog
  if !c.room && c'.room then ({ s with dispatch := { s.dispatch with logFull := false } } : State).postDispatch else s

/-- R125: room has returned to the call log from one state to the other. -/
def State.roomReturned (s t : State) : Bool := !s.charge.room && t.charge.room

end Sys2Proof.Machine
end

