-- ==== Sys2Proof/Machine/Reports.lean ====
section
/-! DEFINITION. Chapter 10: the observed writes of the command producer index, the report consumer index
and the guard word; SET_ATTN and the end of an ATTN pulse; ENABLE_GUARD and CLEAR_GUARD_FLAG. The guard's
expiry is in Calls.lean. -/

namespace Sys2Proof.Machine

/-! ## The command producer index (R181, R182) -/

/-- R181: the producer index that a written value is taken as. -/
def CommandUnit.takenProducer (c : CommandUnit) (written : BitVec 16) : BitVec 16 :=
  let distance := (written - c.consumer).toNat
  if 16 < distance then c.consumer + 16
  else if distance = 0 ∧ c.inProgress.isSome then c.consumer + 1
  else written

/-- R181: an observed write of the command producer index, as the word it makes. -/
def State.producerWritten (s : State) (w : Word) : State :=
  let c := s.command
  let c' := { c with producer := c.takenProducer (w.extractLsb' 0 16) }
  let c' := { c' with withdrawn := c'.withdrawn || (c'.readAsked && decide (c'.pendingCount = 0)) }
  (({ s with command := c' } : State).postCommand).askEntry

/-- R182: the data of a read asked for an entry that has been withdrawn arrives and is discarded. When the producer
index has taken an entry in again meanwhile, the unit asks anew (log 18). -/
def commandReadDiscardedEvent (s : State) : State :=
  if s.command.readAsked && s.command.withdrawn then s.readArrives.askEntry else s

/-- R182: a kind that is none of the 28 is refused BAD_ARGUMENT without reaching any block. -/
def unknownKind (s : State) : State × Option Answer := s.refuse .badArgument

/-- The 28 kinds of section 10.2. -/
def kindKnown (kind : Byte) : Bool := decide (1 ≤ kind.toNat) && decide (kind.toNat ≤ 28)

def unknownCommandKindEvent (kind : Byte) (tag : Tag) (s : State) : State :=
  if kindKnown kind then s else s.takeCommand kind.toNat tag unknownKind

/-! ## The report consumer index (R186) and ATTN (R187) -/

/-- R186. -/
def State.reportConsumerWritten (s : State) (w : Word) : State :=
  let r := s.report
  let r' := { r with consumer := takenConsumer r.producer r.consumer (w.extractLsb' 0 16) }
  let r' := { r' with overflow := r'.overflow && !decide (r'.unconsumed < Config.reportSlots) }
  ({ s with report := r' } : State).postReport

/-- R187. -/
def setAttn (mode mask : Word) (s : State) : State × Option Answer :=
  match attnModeOf mode.toNat with
  | none => s.refuse .badArgument
  | some m =>
    (({ s with report := { s.report with mode := m, mask := mask.extractLsb' 0 5, pulse := none } } : State).postReport).done 0

def setAttnEvent (tag : Tag) (mode mask : Word) (s : State) : State := s.takeCommand 26 tag (setAttn mode mask)

/-- R187: 2 µs after the last report written, ATTN is released. -/
def attnPulseEndEvent (s : State) : State :=
  let s' := s.reach s.report.pulse
  ({ s' with report := { s'.report with pulse := none } } : State)

/-! ## The line guard (R189 to R191) -/

/-- The count runs from a full period when a line is off-hook, and stands at the period otherwise. -/
def State.restartGuard (s : State) : State :=
  let deadline := if s.guard.enable && s.anyOffHook then s.after (s.guard.period.getD 0 * Config.second) else none
  { s with guard := { s.guard with deadline := deadline } }

/-- R190: an observed write of the guard word. -/
def State.guardWritten (s : State) (be : BitVec 4) (data : Word) : State :=
  if s.guard.enable && be == 0b1111#4 && data.toNat == s.guard.expected then
    (({ s with guard := { s.guard with expected := 3 - s.guard.expected } } : State).restartGuard).postGuard
  else s

/-- R189: 1..60 s. -/
def clampPeriod (n : Nat) : Nat := max 1 (min n 60)

/-- R189. -/
def enableGuard (period : Word) (s : State) : State × Option Answer :=
  if s.guard.taken then s.done 0
  else
    let p := clampPeriod period.toNat
    (({ s with guard := { s.guard with enable := true, period := some p, taken := true, expected := 1 } } :
        State).restartGuard.postGuard).done p

def enableGuardEvent (tag : Tag) (period : Word) (s : State) : State := s.takeCommand 27 tag (enableGuard period)

/-- R191. -/
def clearGuardFlag (s : State) : State × Option Answer :=
  if s.guard.expired then (({ s with guard := { s.guard with expired := false } } : State).postGuard).done 1 else s.done 0

def clearGuardFlagEvent (tag : Tag) (s : State) : State := s.takeCommand 28 tag clearGuardFlag

end Sys2Proof.Machine
end

