-- ==== Sys2Proof/Machine/Path.lean ====
section
/-! DEFINITION. Chapter 9, the path unit: areas, kinds of control words, host accesses word by word with
their observers and their holds, SET_REGIONS, the poster's access and the arbiter's grant. Every boundary
of the map lies at a multiple of 4, so a word is classified whole (log 15). Words are numbered: word `w`
is the word at byte address 4 × `w`. -/

namespace Sys2Proof.Machine

/-! ## Areas (R168) and kinds (R170, R193) -/

inductive Area
  | beyond
  | control (place : Nat)
  | store
  | captureSlot (slot word : Nat)
  | captureRest
  | renderSlot (slot word : Nat)
  | renderRest
  | plain
deriving DecidableEq, Repr

/-- The areas that SET_REGIONS places, by word number. -/
def Regions.areaOf (r : Regions) (w : Nat) : Area :=
  if r.storeBase / 4 ≤ w ∧ w < (r.storeBase + r.storeLength) / 4 then .store
  else if r.captureBase / 4 ≤ w ∧ w < r.captureBase / 4 + 1024 then
    let o := w - r.captureBase / 4
    if o < 640 then .captureSlot (o / 80) (o % 80) else .captureRest
  else if r.renderBase / 4 ≤ w ∧ w < r.renderBase / 4 + 1024 then
    let o := w - r.renderBase / 4
    if o < 640 then .renderSlot (o / 80) (o % 80) else .renderRest
  else .plain

/-- R168, by the first line of its table that the word meets. -/
def Path.areaOf (p : Path) (w : Nat) : Area :=
  if p.straps.dramMiB * 262144 ≤ w then .beyond
  else if p.straps.controlBase ≤ w then .control (w - p.straps.controlBase)
  else match p.regions with
    | some r => r.areaOf w
    | none => .plain

inductive ControlKind
  | hostWritable
  | commandProducer
  | reportConsumer
  | logConsumer
  | guardWord
  | tariff
  | deskField (desk : Nat) (spent : Bool)
  | clockWord0
  | clockWord3
  | partOwned
deriving DecidableEq, Repr

/-- R170, R193. -/
def controlKind (place : Nat) : ControlKind :=
  if place = clockPlace then .clockWord0
  else if place = clockPlace + 3 then .clockWord3
  else if place = guardPlace then .guardWord
  else if place = commandProducerPlace then .commandProducer
  else if place = reportConsumerPlace then .reportConsumer
  else if place = logConsumerPlace then .logConsumer
  else if commandRingPlace ≤ place ∧ place < commandRingPlace + 128 then .hostWritable
  else if deskPlace ≤ place ∧ place < deskPlace + 256 ∧ (place - deskPlace) % 8 < 2 then
    .deskField ((place - deskPlace) / 8) ((place - deskPlace) % 8 == 1)
  else if prefixPlace ≤ place ∧ place < tariffEnd then .tariff
  else if timetablePlace ≤ place ∧ place < timetableEnd then .hostWritable
  else .partOwned

/-! ## Observers of writes -/

/-- The bytes of a word that are enabled. -/
def enabledBytes (be : BitVec 4) : Nat :=
  (be.getLsbD 0).toNat + (be.getLsbD 1).toNat + (be.getLsbD 2).toNat + (be.getLsbD 3).toNat

/-- A write byte that passes reaches DRAM. -/
def State.passWrite (s : State) (w : Nat) (be : BitVec 4) (data : Word) : State :=
  { s with mem := Memory.writeMasked s.mem w be data }

def Coder.slot (c : Coder) (i : Nat) : CaptureSlot := c.slots.getD (i % 8) (.free i)
def Coder.setSlot (c : Coder) (i : Nat) (x : CaptureSlot) : Coder := { c with slots := c.slots.setIfInBounds (i % 8) x }

/-- R28: the first completion of a line numbered 8191 or above sets the page's LONG flag. -/
def State.markLong (s : State) : State :=
  match s.page s.coder.page with
  | none => s
  | some p => if p.long then s else s.changePage s.coder.page fun p => { p with long := true }

/-- R24, R28, R32, R33: what the coder does with a write of a slot word that has passed. -/
def State.captureObserved (s : State) (slot word : Nat) : State :=
  let c := s.coder
  match c.width with
  | none => s
  | some w =>
    if 32 * (word + 1) = w then
      match c.slot slot with
      | .pending _ => s
      | .free k =>
        match c.state with
        | .idle => s
        | .full => { s with coder := c.setSlot slot (.free (k + 8)) }
        | .opened =>
          if c.closing then s
          else if k ≤ 8190 then { s with coder := c.setSlot slot (.pending k) }
          else ({ s with coder := c.setSlot slot (.free (k + 8)) } : State).markLong
    else s

/-- R170: a write of a word of the control area. -/
def State.writeControl (s : State) (w place : Nat) (be : BitVec 4) (data : Word) : State :=
  let passed := s.passWrite w be data
  let made := Memory.readWord passed.mem w
  match controlKind place with
  | .hostWritable => passed
  | .commandProducer => passed.producerWritten made
  | .reportConsumer => passed.reportConsumerWritten made
  | .logConsumer => passed.logConsumerWritten made
  | .guardWord => passed.guardWritten be data
  | .tariff => if s.charge.locked then s.lockAbsorbed w (enabledBytes be) else passed
  | .deskField d spent => if s.charge.locked then s.lockAbsorbed w (enabledBytes be) else passed.deskWritten d spent be data
  | .clockWord0 => s
  | .clockWord3 => s
  | .partOwned => s

/-- R169: a write word that is not held. -/
def State.performWrite (s : State) (w : Nat) (be : BitVec 4) (data : Word) : State :=
  match s.path.areaOf w with
  | .beyond => s
  | .control place => s.writeControl w place be data
  | .store => s
  | .captureSlot slot word => (s.passWrite w be data).captureObserved slot word
  | .captureRest => s.passWrite w be data
  | .renderSlot _ _ => s
  | .renderRest => s
  | .plain => s.passWrite w be data

/-! ## Reads -/

/-- The bytes that a read brings stand on the data lines; bytes not read keep what stood there. -/
def State.drive (s : State) (be : BitVec 4) (data : Word) : State :=
  { s with path := { s.path with readData := mergeBytes s.path.readData be data } }

/-- A read byte that passes returns DRAM. -/
def State.driveDram (s : State) (w : Nat) (be : BitVec 4) : State := s.drive be (Memory.readWord s.mem w)

/-- R162: a read of clock word 0 opens a read, or opens it afresh. -/
def State.clockOpened (s : State) : State := { s with clock := { s.clock with readOpen := true, moved := false } }

/-- R162: clock word 3 with its moved field replaced. -/
def movedWord (c : Clock) (w : Word) : Word :=
  pack [⟨w.toNat, 0, 31⟩, ⟨(!c.readOpen || c.moved).toNat, 31, 1⟩]

/-- R162: a read of clock word 3 closes the read. -/
def State.clockClosed (s : State) : State := { s with clock := { s.clock with readOpen := false } }

/-- R169, R52, R162: a read word that is not held. -/
def State.performRead (s : State) (w : Nat) (be : BitVec 4) : State :=
  match s.path.areaOf w with
  | .beyond => s.drive be 0
  | .control place =>
    match controlKind place with
    | .clockWord0 => (s.driveDram w be).clockOpened
    | .clockWord3 => (s.drive be (movedWord s.clock (Memory.readWord s.mem w))).clockClosed
    | _ => s.driveDram w be
  | .renderSlot slot word =>
    if 4 * (word + 1) ≤ s.render.width / 8 then
      (match (s.render.slot slot).read with
       | .zero => s.drive be 0
       | .passes => s.driveDram w be
       | .held => s.driveDram w be).afterSlotRead slot word
    else s.driveDram w be
  | _ => s.driveDram w be

/-! ## Holds (R174) -/

/-- The word meets the hold condition of the area it falls in. -/
def State.mustHold (s : State) : BusOp → Bool
  | .write w be _ =>
    match s.path.areaOf w with
    | .captureSlot slot _ =>
      be != 0 && (match s.coder.slot slot with
        | .pending _ => true
        | .free _ => false)
    | _ => false
  | .read w be =>
    match s.path.areaOf w with
    | .renderSlot slot word => be != 0 && decide (4 * (word + 1) ≤ s.render.width / 8) && (s.render.slot slot).read == .held
    | _ => false

/-- A word with no byte enabled is not read, written or classified (R169). -/
def State.perform (s : State) : BusOp → State
  | .write w be data => if be = 0 then s else s.performWrite w be data
  | .read w be => if be = 0 then s else s.performRead w be

/-- R174: the word is held from now on. -/
def State.hold (s : State) (op : BusOp) : State := { s with path := { s.path with held := some ⟨op, s.clock.now⟩ } }

/-- Some byte of the word passes to DRAM or from it: only such a word asks for the DRAM port. Absorbed and
discarded words and reads served as 0 do not ask (R178). -/
def State.usesPort (s : State) : BusOp → Bool
  | .write w be _ =>
    be != 0 && (match s.path.areaOf w with
      | .plain => true
      | .captureSlot _ _ => true
      | .captureRest => true
      | .control place =>
        (match controlKind place with
         | .hostWritable | .commandProducer | .reportConsumer | .logConsumer | .guardWord => true
         | .tariff => !s.charge.locked
         | .deskField _ _ => !s.charge.locked
         | .clockWord0 | .clockWord3 | .partOwned => false)
      | .beyond => false
      | .store => false
      | .renderSlot _ _ => false
      | .renderRest => false)
  | .read w be =>
    be != 0 && (match s.path.areaOf w with
      | .beyond => false
      | .renderSlot slot word => !(decide (4 * (word + 1) ≤ s.render.width / 8) && (s.render.slot slot).read == .zero)
      | _ => true)

/-! ## The arbiter (R178, R179) -/

/-- The five engine requests in the fixed order. -/
def Requests.engines (r : Requests) : List (Requester × Nat) :=
  [(.coder, r.coder), (.decoder, r.decoder), (.sessionA, r.sessionA), (.sessionB, r.sessionB), (.poster, r.poster)].filterMap
    fun p => p.2.map fun t => (p.1, t)

/-- The request that has waited longest, the first of those that have waited equally long. -/
def longest : List (Requester × Nat) → Option (Requester × Nat)
  | [] => none
  | p :: ps =>
    match longest ps with
    | none => some p
    | some q => if q.2 < p.2 then some q else some p

/-- R179. -/
def Requests.grant (r : Requests) (now : Nat) : Option Requester :=
  match longest r.engines with
  | .none => r.bus.map fun _ => Requester.bus
  | some (e, t) => if t + Config.engineWait ≤ now then some e else if r.bus.isSome then some .bus else some e

/-- R179: a request that the bus makes now is granted at once: the port is free, and no engine has waited its
limit. -/
def State.busGoesFirst (s : State) : Bool :=
  !s.path.headHanded && ({ s.path.requests with bus := some s.clock.now }.grant s.clock.now == some .bus)

/-! ## Host accesses (R171, R174, R178) -/

/-- The word goes on with the run of the word before it: the next word, in the same direction. -/
def BusOp.follows : BusOp → BusOp → Bool
  | .write w _ _, .write v _ _ => w == v + 1
  | .read w _, .read v _ => w == v + 1
  | .write _ _ _, .read _ _ => false
  | .read _ _, .write _ _ _ => false

/-- The access of the bus is under way: its last word was made at this instant, and it can take more (log 13). -/
def State.openRun (s : State) : Option BusRun :=
  s.path.run.filter fun r => r.since == s.clock.now && decide (0 < r.left)

/-- R178: the access of the bus once it makes the word: the one under way, when the word goes on with its run, or else a
new one, of 8 words at most. A word that is absorbed, held or served as 0 ends the run. -/
def State.runWith (s : State) (op : BusOp) : Option BusRun :=
  if s.usesPort op && !s.mustHold op then
    match s.openRun with
    | some r => some ⟨op, if op.follows r.last then r.left - 1 else 7, s.clock.now⟩
    | none => some ⟨op, 7, s.clock.now⟩
  else none

/-- A word of the bus has its turn: held, or done. -/
def State.takeWord (s : State) (op : BusOp) : State :=
  let s := { s with path := { s.path with run := s.runWith op } }
  if s.mustHold op then s.hold op else s.perform op

/-- The word waits at the port for its grant. -/
def State.waitForGrant (s : State) (op : BusOp) : State :=
  { s with path := { s.path with atPort := some op, requests := { s.path.requests with bus := some s.clock.now } } }

/-- The next word that the controller bus makes. Behind a word that is held or waits for the port it waits (R171, log
14). A word that passes asks for the port, and waits there when the port is not granted at once (R179). -/
def State.busAccess (s : State) (op : BusOp) : State :=
  if s.path.held.isSome || s.path.atPort.isSome then { s with path := { s.path with stalled := s.path.stalled ++ [op] } }
  else if s.usesPort op && !s.mustHold op && !s.busGoesFirst then s.waitForGrant op
  else s.takeWord op

/-- Release (R174): when the held word's condition no longer holds, it is decided afresh. -/
def State.release (s : State) : State :=
  match s.path.held with
  | none => s
  | some h => if s.mustHold h.op then s else ({ s with path := { s.path with held := none } } : State).busAccess h.op

/-- The word is a write of the call log consumer index, which may bring a choice (R125). -/
def State.isLogConsumer (s : State) : BusOp → Bool
  | .write w be _ => be != 0 && s.path.areaOf w == .control logConsumerPlace
  | .read _ _ => false

/-- A word that has waited behind another is decided. One that may bring a choice waits for a grant of its own, in which the
choice is made (log 14). -/
def State.resumeWord (s : State) (op : BusOp) : State :=
  if s.path.held.isNone && s.path.atPort.isNone && s.isLogConsumer op then s.waitForGrant op else s.busAccess op

/-- The words that waited behind a hold, or behind a word at the port, are decided in order, after its event
(R174). -/
def State.resumeBus (s : State) : State :=
  if s.path.held.isSome || s.path.atPort.isSome then s
  else s.path.stalled.foldl State.resumeWord { s with path := { s.path with stalled := [] } }

/-- The hold that ends by expiry, and the instant of it: the hold limit after its start. -/
def State.holdEnd (s : State) (h : Held) : Option Nat := some (h.since + s.path.holdLimit * Config.us)

/-! ## SET_REGIONS (R172, R173) -/

/-- Two areas share a byte. -/
def overlap (a la b lb : Nat) : Bool := decide (a < b + lb) && decide (b < a + la)

/-- Tests 1 to 4 of R172, in bytes; `top` is D − 65536. -/
def regionsFit (top storeBase storeLength captureBase renderBase : Nat) : Bool :=
  decide (storeBase % 4096 = 0) && decide (captureBase % 4096 = 0) && decide (renderBase % 4096 = 0) &&
  decide (storeLength % 2048 = 0) && decide (65536 ≤ storeLength) && decide (storeLength ≤ 8388608) &&
  decide (storeBase + storeLength ≤ top) && decide (captureBase + 4096 ≤ top) && decide (renderBase + 4096 ≤ top) &&
  !overlap storeBase storeLength captureBase 4096 && !overlap storeBase storeLength renderBase 4096 &&
  !overlap captureBase 4096 renderBase 4096

/-- Test 5 of R172. -/
def State.regionsBusy (s : State) : Bool :=
  s.store.pages.toList.any Option.isSome || s.coder.state != .idle || s.render.rendering

/-- R173: 8..255 µs. -/
def clampHold (n : Nat) : Nat := max 8 (min n 255)

/-- R2. -/
def Store.rebuild (x : Store) (total : Nat) : Store :=
  { x with total := total, free := List.range total, reserve := min 32 (total / 2) }

/-- The 24-bit address of an argument word (R194). -/
def addressOf (w : Word) : Nat := unpack w 0 24

def setRegions (storeBase storeLength captureBase renderBase holdLimit : Word) (s : State) : State × Option Answer :=
  let sb := addressOf storeBase
  let cb := addressOf captureBase
  let rb := addressOf renderBase
  let len := storeLength.toNat
  if !regionsFit (4 * s.path.straps.controlBase) sb len cb rb then s.refuse .badArgument
  else if s.regionsBusy then s.refuse .busy
  else
    let limit := clampHold holdLimit.toNat
    let s : State := { s with
      path := { s.path with regions := some ⟨sb, len, cb, rb⟩, holdLimit := limit }
      store := s.store.rebuild (len / Config.blockBytes)
      coder := { s.coder with slots := CaptureSlot.allFree }
      render := { s.render with slots := Vector.replicate 8 .noLine } }
    (s.postPathStatus.postStore).done limit

def setRegionsEvent (tag : Tag) (storeBase storeLength captureBase renderBase holdLimit : Word) (s : State) : State :=
  s.takeCommand 25 tag (setRegions storeBase storeLength captureBase renderBase holdLimit)

/-! ## The rows of host accesses (those that may bring a choice are in ReadRows.lean) -/

/-- Word `word` of the capture window; there is no window before SET_REGIONS (R23). -/
def captureWindowWriteEvent (word : BitVec 10) (be : BitVec 4) (data : Word) (s : State) : State :=
  match s.path.regions with
  | some r => s.busAccess (.write (r.captureBase / 4 + word.toNat) be data)
  | none => s

/-- Word `word` of the render window; there is no window before SET_REGIONS (R52). -/
def renderSlotReadEvent (word : BitVec 10) (be : BitVec 4) (s : State) : State :=
  match s.path.regions with
  | some r => s.busAccess (.read (r.renderBase / 4 + word.toNat) be)
  | none => s

/-- A host write of a word of the control area. -/
def State.hostControlWrite (s : State) (place : Nat) (be : BitVec 4) (data : Word) : State :=
  s.busAccess (.write (s.path.straps.controlBase + place) be data)

/-- A host read of a word of the control area. -/
def State.hostControlRead (s : State) (place : Nat) : State :=
  s.busAccess (.read (s.path.straps.controlBase + place) 0b1111#4)

def commandProducerWriteEvent (be : BitVec 4) (data : Word) (s : State) : State :=
  s.hostControlWrite commandProducerPlace be data

def reportConsumerWriteEvent (be : BitVec 4) (data : Word) (s : State) : State :=
  s.hostControlWrite reportConsumerPlace be data

def guardKickEvent (be : BitVec 4) (data : Word) (s : State) : State := s.hostControlWrite guardPlace be data

def deskFieldWriteEvent (desk : Fin 32) (spent : Bool) (be : BitVec 4) (data : Word) (s : State) : State :=
  s.hostControlWrite (deskRecordPlace desk.val + spent.toNat) be data

def clockWord0ReadEvent (s : State) : State := s.hostControlRead clockPlace

def clockWord3ReadEvent (s : State) : State := s.hostControlRead (clockPlace + 3)

/-! ## The arbiter's grant (R178, R179) -/

/-- R178: the words that stand behind the word just made and go on with its run are made in the same access, at most as
many as are given. -/
def State.continueRun : Nat → BusOp → State → State
  | 0, _, s => s
  | n + 1, made, s =>
    match s.path.stalled with
    | [] => s
    | op :: rest =>
      if s.path.held.isNone && op.follows made && s.usesPort op && !s.mustHold op then
        State.continueRun n op (({ s with path := { s.path with stalled := rest } } : State).takeWord op)
      else s

/-- R178: the bus word that waits at the port is made, and with it the rest of its run of passing words, 8 at most. Each
is decided as the state stands at the grant: a word that SET_REGIONS, END_PRINT or a reset has since placed in another area
is absorbed, or held, by that. R178 does not say whether a word keeps the decision that made it ask (DESIGN CHOICE, log
38). -/
def State.portWord (s : State) : State :=
  match s.path.atPort with
  | none => s
  | some op => State.continueRun 7 op (({ s with path := { s.path with atPort := none, run := none } } : State).takeWord op)

/-- R178: the first access of a session engine: bytes of a session block taken, or bytes of a DATA frame. -/
def State.sessionAccess (s : State) (l : Line) : State :=
  let x := s.session l
  match x.writes with
  | [] => s.setSession l { x with reads := x.reads.drop (accessLength x.reads) }
  | ws =>
    let run := firstAccess ws
    { s with mem := Memory.writeBytes s.mem run }.setSession l { x with writes := ws.drop run.length }

/-- R178: the first access of the coder: code bytes written, or bytes of a slot line read. -/
def State.coderAccess (s : State) : State :=
  let c := s.coder
  match c.writes with
  | [] => { s with coder := { c with got := c.got + accessLength s.lineAhead } }
  | ws =>
    let run := firstAccess ws
    { s with mem := Memory.writeBytes s.mem run, coder := { c with writes := ws.drop run.length } }

/-- R178: the first access of the decoder: bytes of a placed slot line written, or code bytes read. -/
def State.decoderAccess (s : State) : State :=
  let r := s.render
  match r.writes with
  | [] => { s with render := { r with got := r.got + accessLength s.codeAhead } }
  | ws =>
    let run := firstAccess ws
    { s with mem := Memory.writeBytes s.mem run, render := { r with writes := ws.drop run.length } }

/-- The access of the bus that was under way has ended. -/
def State.endRun (s : State) : State := { s with path := { s.path with run := none } }

/-- What the requester granted does with its one access (log 13). -/
def State.portAccess (s : State) : Requester → State
  | .bus => s.portWord
  | .coder => s.endRun.coderAccess
  | .decoder => s.endRun.decoderAccess
  | .sessionA => s.endRun.sessionAccess .A
  | .sessionB => s.endRun.sessionAccess .B
  | .poster => { s.endRun with path := { s.endRun.path with headHanded := !s.path.postings.isEmpty } }

/-- R179: the port is free: neither an item of the poster stands at it, nor is an access of the bus under way. -/
def State.portIdle (s : State) : Bool := !s.path.headHanded && s.openRun.isNone

/-- R179: the request granted leaves the arbiter, and its requester takes one access. -/
def State.takePort (s : State) (e : Requester) : State := (s.leavePort e).portAccess e

/-- R179: the arbiter grants the port to the requester now. -/
def State.picks (s : State) (e : Requester) : Bool := s.portIdle && s.path.requests.grant s.clock.now == some e

/-- R179: one grant. While the port is not free no access of another is made, and a grant to a requester that the waits do
not pick cannot happen (log 6). -/
def State.grantPort (s : State) (e : Requester) : State := if s.picks e then s.takePort e else s

end Sys2Proof.Machine
end

