-- ==== Sys2Proof/Machine/Printing.lean ====
section
/-! DEFINITION. Chapter 3, the commands PRINT_PAGE, END_PRINT, SET_PRINT_MODE and SET_RENDER_WIDTH, and
the rows of the decoder and of the hold on a render read. -/

namespace Sys2Proof.Machine

/-- R45. -/
def printPage (page : Word) (s : State) : State × Option Answer :=
  match s.completePage page.toNat with
  | none => s.refuse .noSuch
  | some _ =>
    if s.render.queue.contains page.toNat then s.refuse .state
    else if 64 ≤ s.render.queue.length then s.refuse .full
    else (s.joinQueue page.toNat).done (s.render.queue.length + 1)

def printPageEvent (tag : Tag) (page : Word) (s : State) : State := s.takeCommand 7 tag (printPage page)

/-- R57: a host read held on a slot of the page is released and returns zero. -/
def State.releaseZero (s : State) : State :=
  match s.path.held with
  | some ⟨.read _ be, _⟩ => ({ s with path := { s.path with held := none } } : State).drive be 0
  | _ => s

/-- R57. -/
def endPrint (s : State) : State × Option Answer :=
  if s.render.rendering then
    let r := s.render
    (s.stopDecoding.releaseZero.pageLeaves
      { kind := .printEnded, page := r.page, job := s.pageJob r.page, value1 := some r.linesEnded,
        value2 := some r.lineCount }).done 0
  else s.refuse .state

def endPrintEvent (tag : Tag) (s : State) : State := (s.takeCommand 8 tag endPrint).resumeBus

/-- R47: the mode is set and posted; RUN may start the head page (R49). -/
def State.setMode (s : State) (m : PrintMode) : State :=
  (({ s with render := { s.render with mode := m } } : State).postRender).startRendering

/-- R47. -/
def setPrintMode (mode : Word) (s : State) : State × Option Answer :=
  match printModeOf mode.toNat with
  | none => s.refuse .badArgument
  | some m => (if s.render.mode = m then s else s.setMode m).done 0

def setPrintModeEvent (tag : Tag) (mode : Word) (s : State) : State := s.takeCommand 9 tag (setPrintMode mode)

/-- 1024..2560 in steps of 64 (R29, R48). -/
def widthOk (n : Nat) : Bool := decide (1024 ≤ n) && decide (n ≤ 2560) && decide (n % 64 = 0)

/-- R48. -/
def setRenderWidth (width : Word) (s : State) : State × Option Answer :=
  if s.render.rendering then s.refuse .state
  else if !widthOk width.toNat then s.refuse .badArgument
  else (({ s with render := { s.render with width := width.toNat } } : State).postRender).done width.toNat

def setRenderWidthEvent (tag : Tag) (width : Word) (s : State) : State := s.takeCommand 10 tag (setRenderWidth width)

/-- R50: the next line is produced, once the code it needs has been read, and written into its slot, discarded, or kept
waiting for its slot. -/
def State.decodeLine (s : State) : State :=
  if s.render.decoding && s.codeAhead.isEmpty then
    match s.page s.render.page with
    | none => s
    | some p => (s.produceLine p).placeProduced
  else s

def renderLineDecodedEvent (s : State) : State := s.decodeLine

/-- R50, R53, R54: the last byte of the line being written has reached DRAM. -/
def State.slotFilled (s : State) : State :=
  match s.render.writing with
  | none => s
  | some k =>
    if s.render.writes.isEmpty then
      let r := s.render
      let r := if r.slot k = .empty k false then r.setSlot k (.full k) else r
      ({ s with render := { r with writing := none, nextLine := k + 1 } } : State).release
    else s

def renderSlotFilledEvent (s : State) : State := s.slotFilled.resumeBus

/-- R54: the hold limit runs out on a held render read. -/
def State.renderExpiry (s : State) : State :=
  match s.path.held with
  | some ⟨.read w be, since⟩ =>
    let s := s.reach (s.holdEnd ⟨.read w be, since⟩)
    let s := ({ s with path := { s.path with held := none } } : State).drive be 0
    match s.path.areaOf w with
    | .renderSlot slot word => s.loseSlotLine slot word
    | _ => s
  | _ => s

def renderHoldExpiryEvent (s : State) : State := s.renderExpiry.resumeBus

end Sys2Proof.Machine
end

