-- ==== Sys2Proof/Machine/Capture.lean ====
section
/-! DEFINITION. Chapter 2, the capture coder: the three capture commands, the coding of lines, the capture
allocation, the close and the hold on a capture write. -/

namespace Sys2Proof.Machine

/-! ## Code bits (R27, R39) -/

/-- Bits appended to the page's code: each byte filled goes on its way to the chain (R17), and the page
counts it. Nothing is posted here. -/
def State.appendCode (s : State) (bits : List Bool) : State :=
  let c := s.coder
  match s.page c.page with
  | none => s
  | some p =>
    let r := splitBytes (c.tail ++ bits)
    let ws := r.1.zipIdx.map fun b => (s.codeAddr p (p.codeBytes + b.2), b.1)
    ({ s with coder := { c with tail := r.2, codeBits := c.codeBits + bits.length, writes := c.writes ++ ws } } :
      State).setPage c.page (some { p with codeBytes := p.codeBytes + r.1.length })

/-- The bits fit in the page's chain as it stands. -/
def State.codeFits (s : State) (bits : List Bool) : Bool :=
  match s.page s.coder.page with
  | some p => decide (s.coder.codeBits + bits.length ≤ 8 * Config.blockBytes * p.chain.length)
  | none => false

/-- R27: a coded line or END enters the page's code, and the page record is posted (R20). -/
def State.writeCode (s : State) (c : AskedCode) : State :=
  let s := s.appendCode c.bits
  match c.line with
  | none => ({ s with coder := { s.coder with asked := none, endCoded := true } } : State).postPage s.coder.page
  | some line =>
    ({ s with coder := { s.coder with asked := none, reference := line, nextLine := s.coder.nextLine + 1 } } : State).changePage
      s.coder.page fun p => { p with lineCount := p.lineCount + 1 }

/-- R7, R27: code that would fall past the last block waits for a capture allocation (log 20). -/
def State.code (s : State) (c : AskedCode) : State :=
  if s.codeFits c.bits then s.writeCode c else { s with coder := { s.coder with asked := some c } }

/-- R33: the next line to code is neither PENDING nor in the lost list. -/
def Coder.atGap (c : Coder) : Bool := !c.lost.contains c.nextLine && c.slot c.nextLine != .pending c.nextLine

def State.captureLines (s : State) : Nat :=
  match s.page s.coder.page with
  | some p => p.lineCount
  | none => 0

/-- The coder closes and nothing is left but END. -/
def State.closeReady (s : State) : Bool :=
  s.coder.state == .opened && s.coder.closing && s.coder.asked.isNone && s.coder.atGap

/-- R31, R33: every PENDING slot becomes FREE with next line 8 higher. -/
def CaptureSlot.freed : CaptureSlot → CaptureSlot
  | .pending k => .free (k + 8)
  | .free k => .free k

/-- R39: END, and zero bits to the end of its byte. -/
def Coder.endCode (c : Coder) : AskedCode :=
  ⟨endToken ++ List.replicate ((8 - (c.tail.length + endToken.length) % 8) % 8) false, none⟩

/-- R33, R39: when its turn comes END is coded, in that event (log 20). The slots PENDING beyond the gap are freed before
it, and a write held in one of them is released. -/
def State.codeEnd (s : State) : State :=
  if s.closeReady && !s.coder.endCoded then
    let s := ({ s with coder := { s.coder with slots := s.coder.slots.map CaptureSlot.freed } } : State).release
    if s.captureLines = 0 then s else s.code s.coder.endCode
  else s

/-! ## The context -/

/-- R33, R35: the context returns to IDLE, with page 0, the slots FREE and the lost list empty. The rules do not say what its
other fields (W, purpose, job, next line to code, reference line, lost-reported, code bits) hold in IDLE: here their power-on
values, until OPEN_CAPTURE sets them anew (DESIGN CHOICE, log 43). -/
def State.captureIdle (s : State) : State := { s with coder := Coder.powerOn }

/-- R30, R35: the FILLING page of an OPEN context is aborted, the context becomes IDLE, and a held write
is released. Code bytes of the page that still wait for the DRAM port are dropped with the context: R36 and R175 say so of a
host reset only (DESIGN CHOICE, log 41). -/
def State.abandonCapture (s : State) : State :=
  let s := if s.coder.state = .opened then s.abortPage s.coder.page else s
  s.captureIdle.release

/-- R29, step 4. -/
def State.captureJobRefusal (s : State) (job : Nat) : Option CommandRefusal :=
  match s.job job with
  | none => some .noSuch
  | some x => if x.state ≠ .assembling then some .state else if 64 ≤ x.pageList.length then some .full else none

/-- The page record that OPEN_CAPTURE creates (R11, R29). -/
def Page.filling (origin : Origin) (purpose : Purpose) (job width : Nat) : Page :=
  { complete := false, origin := origin, purpose := purpose, job := job, width := width, lineCount := 0, codeBytes := 0,
    chain := [], lostLines := 0, long := false, damaged := false, line := none, remoteId := none, rateStep := none,
    completion := none, sendHold := false, printHold := false, keepHold := false }

/-- R29. -/
def openCapture (purpose job width : Word) (s : State) : State × Option Answer :=
  if s.coder.state ≠ .idle then s.refuse .state
  else if s.path.regions.isNone then s.refuse .noStore
  else
    match capturePurpose purpose with
    | none => s.refuse .badArgument
    | some q =>
      if !widthOk width.toNat then s.refuse .badArgument
      else
        match if q = .send then s.captureJobRefusal job.toNat else none with
        | some r => s.refuse r
        | none =>
          match s.store.pages.lowestFree with
          | none => s.refuse .full
          | some n =>
            let j := if q = .send then job.toNat else 0
            let s := s.createPage n (Page.filling .scan q j width.toNat)
            let s : State := { s with coder := { Coder.powerOn with
              state := .opened, page := n, purpose := some q, job := j, width := some width.toNat,
              reference := whiteLine width.toNat } }
            s.done n

def openCaptureEvent (tag : Tag) (purpose job width : Word) (s : State) : State :=
  s.takeCommand 1 tag (openCapture purpose job width)

/-- R33, R35. A close taken in OPEN stays in progress. -/
def closeCapture (s : State) : State × Option Answer :=
  match s.coder.state with
  | .idle => s.refuse .state
  | .full => s.abandonCapture.done 0
  | .opened => (({ s with coder := { s.coder with closing := true } } : State).codeEnd, none)

def closeCaptureEvent (tag : Tag) (s : State) : State := (s.takeCommand 2 tag closeCapture).resumeBus

/-- R35. -/
def abortCapture (s : State) : State × Option Answer :=
  match s.coder.state with
  | .idle => s.refuse .state
  | .full => s.abandonCapture.done 0
  | .opened => s.abandonCapture.done 0

def abortCaptureEvent (tag : Tag) (s : State) : State := (s.takeCommand 3 tag abortCapture).resumeBus

/-! ## Coding a line (R27) -/

/-- The pixels of a slot's line, as its bytes stand in DRAM (R23). -/
def State.slotLine (s : State) (slot width : Nat) : List Bool :=
  pixelsOf (Memory.readBytes s.mem (s.captureSlotAddr slot) (width / 8))

/-- R27: the coder takes the next line, lost, or PENDING and read whole. -/
def State.takeLine (s : State) : State :=
  let c := s.coder
  let n := c.nextLine
  if c.state = .opened ∧ c.asked.isNone then
    if c.lost.contains n then
      (({ s with coder := { c with lost := c.lost.filter (· ≠ n), got := 0 } } : State).code
        ⟨repeatToken, some c.reference⟩).codeEnd
    else if c.slot n = .pending n ∧ s.lineAhead = [] then
      let line := s.slotLine n (c.width.getD 0)
      let s : State := { s with coder := { c.setSlot n (.free (n + 8)) with got := 0 } }
      (s.release.code ⟨lineToken c.reference line, some line⟩).codeEnd
    else s
  else s

def lineTakeEvent (s : State) : State := s.takeLine.resumeBus

/-! ## The capture allocation (R7, R31) -/

/-- R31, and the end of a close that it overtakes (R33). Code bytes of the page that still wait for the DRAM port are dropped
(DESIGN CHOICE, log 41). -/
def State.captureFull (s : State) : State :=
  let c := s.coder
  let rep : Report :=
    { kind := .captureFull, page := c.page, job := c.job, value1 := some s.captureLines, value2 := some s.store.free.length }
  let s := s.abortPage c.page
  let s : State := { s with coder := { c with
    state := .full, slots := c.slots.map CaptureSlot.freed, lost := [], asked := none, tail := [], writes := [] } }
  let s := s.release.handReport rep
  if c.closing then s.captureIdle.endCommand (.done 0) else s

/-- R7, R31. -/
def State.captureAllocate (s : State) : State :=
  match s.coder.asked with
  | none => s
  | some c =>
    if s.store.reserve < s.store.free.length then ((s.giveBlocks s.coder.page 1).code c).codeEnd
    else s.captureFull

def captureAllocationEvent (s : State) : State := s.captureAllocate.resumeBus

/-! ## The close (R33, R34) -/

/-- R34: the page completes and is placed by its purpose. -/
def State.completeCapture (s : State) (n : Nat) (p : Page) : State :=
  let full := { p with complete := true, completion := some s.clock.calendar }
  match p.purpose with
  | .send =>
    ((s.setPage n (some { full with sendHold := true })).postPage n).changeJob p.job fun x => { x with pageList := x.pageList ++ [n] }
  | .copy => (s.setPage n (some full)).queueOrKeep n none
  | .store => (s.setPage n (some { full with keepHold := true })).postPage n
  | .received => (s.setPage n (some full)).queueOrKeep n none

/-- R33: the closing coder has reached the gap; a page with a line completes once its code, END with it, is in DRAM. -/
def State.finishClose (s : State) : State :=
  let n := s.coder.page
  if s.closeReady then
    if s.captureLines = 0 then s.abandonCapture.endCommand (.done 0)
    else if s.coder.endCoded && s.coder.writes.isEmpty then
      match s.page n with
      | none => s
      | some p =>
        let s := (s.completeCapture n p).handReport
          { kind := .pageCompleted, page := n, job := p.job, value1 := some p.lineCount, value2 := some p.codeBytes }
        s.captureIdle.release.endCommand (.done (BitVec.ofNat 32 n))
    else s
  else s

def closeCaptureCompleteEvent (s : State) : State := s.finishClose.resumeBus

/-! ## The hold limit (R26) -/

/-- A line number joins the ascending lost list. -/
def insertLost (k : Nat) : List Nat → List Nat
  | [] => [k]
  | n :: ns => if k < n then k :: n :: ns else if k = n then n :: ns else n :: insertLost k ns

/-- R26, the coder's part: line `k` is lost. -/
def State.loseLine (s : State) (k : Nat) : State :=
  let c := s.coder
  let s : State := { s with coder := { c with lost := insertLost k c.lost, lostReported := true } }
  let s := s.changePage c.page fun p => { p with lostLines := p.lostLines + 1 }
  if c.lostReported then s
  else s.handReport { kind := .captureLostLine, page := c.page, job := c.job, value1 := some k }

/-- R26: the hold limit runs out on a held capture write. -/
def State.captureExpiry (s : State) : State :=
  match s.path.held with
  | some ⟨.write w be data, since⟩ =>
    let s := s.reach (s.holdEnd ⟨.write w be data, since⟩)
    match s.path.areaOf w with
    | .captureSlot slot _ =>
      match s.coder.slot slot with
      | .pending k =>
        (({ s with coder := s.coder.setSlot slot (.free (k + 8)) } : State).release).loseLine k
      | .free _ => s
    | _ => s
  | _ => s

def captureHoldExpiryEvent (s : State) : State := s.captureExpiry.resumeBus

end Sys2Proof.Machine
end

