-- ==== Sys2Proof/Machine/Session.lean ====
section
/-! DEFINITION. Chapter 5, the session engines: sending, training, pages and session blocks in both roles,
the timers, cancel, and SET_STATION_ID. The two rows that end a call, CLEAR_SENT and CLEAR_RECEIVED, are
in Calls.lean. -/

namespace Sys2Proof.Machine

/-! ## The context and its posting (R86) -/

/-- The fields of the session word (R86). -/
def Session.shown (x : Session) : Role × SessionState × Nat × Nat × Nat × Nat :=
  (x.role, x.state, x.negotiated, x.position, x.pagesDone, x.blockNumber)

/-- The context changes; the session word is posted when one of its fields does (R86). -/
def State.putSession (s : State) (l : Line) (x : Session) : State :=
  if x.shown = (s.session l).shown then s.setSession l x else (s.setSession l x).postSession l

/-! ## Sending (R84) -/

/-- The step of a frame other than IDENT, SETUP and the READY or RETRY of a training (R84). -/
def Session.dataStep (x : Session) : Nat := if x.negotiated = 0 then 1 else x.negotiated

/-- A frame handed to the data pump. -/
def Session.send (x : Session) (f : Frame) (step : Nat) : Session := { x with sending := x.sending ++ [.frame f step] }

/-- A frame at the negotiated step, or at step 1 before any training has passed. -/
def Session.sendData (x : Session) (f : Frame) : Session := x.send f x.dataStep

/-- The step at which a frame that waits for an answer goes (R84). -/
def Session.stepOf (x : Session) : Frame → Nat
  | .setup _ _ => 1
  | _ => x.dataStep

/-- A frame that expects an answer: its timer starts when it has been sent (R101). -/
def Session.sendAwaited (x : Session) (f : Frame) : Session :=
  { x.send f (x.stepOf f) with awaiting := some f, responseTimer := none }

/-- No timer runs. -/
def Session.stopTimers (x : Session) : Session :=
  { x with responseTimer := none, idleTimer := none, identTimer := none }

/-- R103: CLEAR with a cause of the engine's own. A BLOCK_OK or PAGE_OK that waits for the writes of its block is dropped:
R97 and R99 do not say whether a receiver in CLEARING still sends it (DESIGN CHOICE, log 42). -/
def Session.clear (x : Session) (cause : Cause) : Session :=
  { (x.sendData (.clear cause.code)).stopTimers with
    state := .clearing, awaiting := none, inHand := [], drain := .none, endCause := some cause }

/-! ## The sender: pages (R93) -/

/-- The job that the line serves. -/
def State.servedJob (s : State) (l : Line) : Option Job :=
  match s.dispatch.serving.get l with
  | some (j, _) => s.job j
  | none => none

/-- The page list of the job served. -/
def State.servedPages (s : State) (l : Line) : List Nat :=
  match s.servedJob l with
  | some x => x.pageList
  | none => []

/-- Code bytes of the page in hand. -/
def State.sessionCodeBytes (s : State) (x : Session) : Nat :=
  match s.page x.page with
  | some p => p.codeBytes
  | none => 0

/-- R93: PAGE_HEAD of the page at the context's position. -/
def State.pageHead (s : State) (l : Line) (x : Session) : Session :=
  let n := (s.servedPages l).getD (x.position - 1) 0
  match s.page n with
  | none => x
  | some p =>
    { x with page := n, sendings := 1, blockNumber := 0, rounds := 0, state := .headSent }.sendAwaited
      (.pageHead x.position p.width p.lineCount p.codeBytes)

/-- The places in the store of the payload of a DATA frame (R17, R93). -/
def State.dataPlaces (s : State) (x : Session) (frame : Nat) : List Nat :=
  match s.page x.page with
  | none => []
  | some p =>
    (List.range (frameLength p.codeBytes x.blockNumber frame)).map fun i => s.codeAddr p (frameStart x.blockNumber frame + i)

/-- The payload of a DATA frame, as the code bytes stand in the store. -/
def State.dataPayload (s : State) (x : Session) (frame : Nat) : List Byte := (s.dataPlaces x frame).map (Memory.read s.mem)

/-- R98: the next DATA frame in hand, whose bytes the engine asks for (R178, log 13), or BLOCK_END after the last. -/
def State.nextData (s : State) (x : Session) : Session :=
  match x.inHand with
  | n :: rest =>
    { x with inHand := rest, reads := s.dataPlaces x n }.sendData (.data x.blockNumber n (s.dataPayload x n))
  | [] =>
    { x with sendings := 1, state := .blockEndSent }.sendAwaited
      (.blockEnd x.blockNumber (blockFrames (s.sessionCodeBytes x) x.blockNumber))

/-- The engine becomes BLOCK with the frames given in hand (R93, R98). -/
def State.startBlock (s : State) (x : Session) (block : Nat) (frames : List Nat) : Session :=
  s.nextData { x with state := .block, blockNumber := block, inHand := frames, awaiting := none, responseTimer := none }

/-- All the frames of a session block. -/
def State.wholeBlock (s : State) (x : Session) (block : Nat) : List Nat :=
  List.range (blockFrames (s.sessionCodeBytes x) block)

/-- R99. -/
def State.pageEnd (s : State) (l : Line) (x : Session) : Session :=
  { x with sendings := 1, state := .pageEndSent }.sendAwaited (.pageEnd (decide (x.position < (s.servedPages l).length)))

/-! ## The sender: training (R88, R91) -/

/-- SETUP at a step, as the first sending of it. -/
def State.setup (s : State) (x : Session) (step : Nat) : Session :=
  { x with training := some step, sendings := 1, repeatBurst := false, state := .setupSent }.sendAwaited (.setup s.stationId step)

/-- The response has come: the timer stops. -/
def Session.answered (x : Session) : Session := { x with awaiting := none, responseTimer := none }

/-! ## The start of a session (R85, R87) -/

/-- R87: IDENT, made as it is sent. -/
def State.sendIdent (s : State) (l : Line) (x : Session) : Session :=
  { x with state := .identSent, identTimer := none }.send
    (.ident s.stationId (s.line l).settings.maxStep s.roomForPages) 1

/-- The pages that earlier sessions of the recipient have confirmed. -/
def State.servedConfirmed (s : State) (l : Line) : Nat :=
  match s.dispatch.serving.get l with
  | some (j, i) =>
    match s.recipient j i with
    | some r => r.pagesConfirmed
    | none => 0
  | none => 0

def State.startSender (s : State) (l : Line) : State :=
  s.putSession l { Session.powerOn with
    role := .sender, state := .waitIdent, position := s.servedConfirmed l + 1, identTimer := s.after Config.identWait }

def State.startReceiver (s : State) (l : Line) : State :=
  s.putSession l (s.sendIdent l { Session.powerOn with role := .receiver, idleTimer := s.after Config.idleTime })

/-! ## The end of a session (R105, R108) -/

/-- The session of the line ends in the event that ends its call. A sender's negotiated step has been
handed on by the caller (R108). R85 gives the context's power-on values at the start of a session, and at its end only
IDLE and NONE: the model sets the other fields to their power-on values at the end too, and shows them (DESIGN CHOICE,
log 34). With them go the bytes that still wait for the DRAM port, those of an aborted page and those of a DATA frame: R110
drops them at a host reset, and R13, R105 and R178 do not say it of another end (DESIGN CHOICE, log 40). -/
def State.endSession (s : State) (l : Line) (cause : Cause) : State :=
  let x := s.session l
  match x.role with
  | .none => s
  | .sender => s.putSession l Session.powerOn
  | .receiver =>
    let s := if x.page = 0 then s else s.abortPage x.page
    (s.handReport
      { kind := .receiveEnd, page := x.lastPage, line := some l, cause := some cause, value1 := some x.pagesDone,
        value2 := some x.negotiated }).putSession l Session.powerOn

/-! ## Frames taken (R83, R102) -/

/-- A good frame of any kind restarts the receiver's idle timer. -/
def State.goodFrame (s : State) (l : Line) : State :=
  let x := s.session l
  if x.role = .receiver ∧ x.state ≠ .clearing then s.setSession l { x with idleTimer := s.after Config.idleTime } else s

/-- A good frame is taken; one whose fields lie outside the ranges is of an unexpected kind (R83). `act`
gives the context after it. -/
def State.takeFrame (s : State) (l : Line) (f : Frame) (act : State → Session → State) : State :=
  let s := s.goodFrame l
  if f.inRange then act s (s.session l) else s

/-- A sender takes answers until a cancel is pending (R107). -/
def Session.sends (x : Session) (st : SessionState) : Bool := x.role == .sender && x.state == st && !x.cancelPending

def Session.receives (x : Session) (st : SessionState) : Bool := x.role == .receiver && x.state == st

/-! ## Rows of the sender -/

/-- R88. -/
def State.identTaken (s : State) (l : Line) (maxStep : Nat) (ready : Bool) (x : Session) : State :=
  if x.sends .waitIdent then
    let x := { x with remoteMax := some maxStep, identTimer := none }
    s.putSession l (if ready then s.setup x (min (s.line l).settings.maxStep maxStep) else x.clear .remoteFull)
  else s

def identReceivedEvent (line : Line) (id : List Byte) (maxStep : Nat) (ready : Bool) (s : State) : State :=
  s.takeFrame line (.ident id maxStep ready) fun s x => s.identTaken line maxStep ready x

/-- R91, R93: READY to SETUP, to the burst, or to PAGE_HEAD. -/
def State.readyTaken (s : State) (l : Line) (x : Session) : State :=
  if x.sends .setupSent then
    let x := x.answered
    s.putSession l { x with
      state := .burst, sendings := if x.repeatBurst then x.sendings else 1, repeatBurst := false,
      sending := x.sending ++ [.burst (x.training.getD 1)] }
  else if x.sends .burstSent then
    let x := { x.answered with negotiated := x.training.getD 0, training := none, step1Retries := 0 }
    match x.retrainGaps with
    | some frames => s.putSession l (s.startBlock { x with retrainGaps := none } x.blockNumber frames)
    | none => s.putSession l (s.pageHead l x)
  else if x.sends .headSent then
    let x := x.answered
    if sessionBlocks (s.sessionCodeBytes x) = 0 then s.putSession l (s.pageEnd l x)
    else s.putSession l (s.startBlock x 0 (s.wholeBlock x 0))
  else s

def readyReceivedEvent (line : Line) (s : State) : State := s.takeFrame line .ready fun s x => s.readyTaken line x

/-- R91. -/
def State.retryTaken (s : State) (l : Line) (x : Session) : State :=
  if x.sends .burstSent then
    let x := x.answered
    let step := x.training.getD 1
    if 1 < step then s.putSession l (s.setup x (step - 1))
    else
      let x := { x with step1Retries := x.step1Retries + 1 }
      s.putSession l (if x.step1Retries < 3 then s.setup x 1 else x.clear .trainFail)
  else s

def retryReceivedEvent (line : Line) (s : State) : State := s.takeFrame line .retry fun s x => s.retryTaken line x

/-- R98. -/
def State.blockOkTaken (s : State) (l : Line) (block : Nat) (x : Session) : State :=
  if x.sends .blockEndSent && block == x.blockNumber then
    let x := { x.answered with rounds := 0 }
    if x.blockNumber + 1 < sessionBlocks (s.sessionCodeBytes x) then
      s.putSession l (s.startBlock x (x.blockNumber + 1) (s.wholeBlock x (x.blockNumber + 1)))
    else s.putSession l (s.pageEnd l x)
  else s

def blockOkReceivedEvent (line : Line) (block : Nat) (s : State) : State :=
  s.takeFrame line (.blockOk block) fun s x => s.blockOkTaken line block x

/-- R98. -/
def State.gapsTaken (s : State) (l : Line) (block : Nat) (frames : List Nat) (x : Session) : State :=
  if x.sends .blockEndSent && block == x.blockNumber &&
      frames.all fun n => decide (n < blockFrames (s.sessionCodeBytes x) x.blockNumber) then
    let x := { x.answered with rounds := x.rounds + 1 }
    if x.rounds < 4 then s.putSession l (s.startBlock x x.blockNumber frames)
    else if 1 < x.negotiated then
      s.putSession l (s.setup { x with rounds := 0, step1Retries := 0, retrainGaps := some frames } (x.negotiated - 1))
    else s.putSession l (x.clear .lineQuality)
  else s

def gapsReceivedEvent (line : Line) (block : Nat) (frames : List Nat) (s : State) : State :=
  s.takeFrame line (.gaps block frames) fun s x => s.gapsTaken line block frames x

/-- R93, R98. -/
def State.storeFullTaken (s : State) (l : Line) (x : Session) : State :=
  if x.sends .headSent || x.sends .blockEndSent then s.putSession l (x.clear .remoteFull) else s

def storeFullReceivedEvent (line : Line) (s : State) : State :=
  s.takeFrame line .storeFull fun s x => s.storeFullTaken line x

/-- R100, R127: one more page of the recipient is confirmed. -/
def State.confirmPage (s : State) (l : Line) : State :=
  match s.dispatch.serving.get l with
  | none => s
  | some (j, i) =>
    match s.recipient j i with
    | none => s
    | some r => (s.setRecipient j i { r with pagesConfirmed := r.pagesConfirmed + 1 }).postRecipient j i

/-- R100. -/
def State.pageOkTaken (s : State) (l : Line) (x : Session) : State :=
  if x.sends .pageEndSent then
    let s := s.confirmPage l
    let x := { x.answered with pagesDone := x.pagesDone + 1 }
    if x.position < (s.servedPages l).length then s.putSession l (s.pageHead l { x with position := x.position + 1 })
    else s.putSession l (x.clear .completed)
  else s

def pageOkReceivedEvent (line : Line) (s : State) : State := s.takeFrame line .pageOk fun s x => s.pageOkTaken line x

/-! ## What the data pump reports sent (R98, R101, R107) -/

/-- A frame other than CLEAR has been sent. -/
def State.afterSent (s : State) (l : Line) (f : Frame) (x : Session) : State :=
  if x.state = .clearing then s.setSession l x
  else if x.cancelPending then s.putSession l (x.clear .cancelled)
  else
    match f with
    | .ident _ _ _ => s.setSession l { x with identTimer := if x.state = .identSent then s.after Config.identRepeat else x.identTimer }
    | .data _ _ _ => if x.state = .block then s.putSession l (s.nextData x) else s.setSession l x
    | _ => s.setSession l (if x.awaiting = some f then { x with responseTimer := s.after Config.responseTime } else x)

def Frame.isClear : Frame → Bool
  | .clear _ => true
  | _ => false

def Frame.isData : Frame → Bool
  | .data _ _ _ => true
  | _ => false

/-- The data pump reports the last bit of the frame at the head of its list sent. It cannot do so of a DATA frame before
the engine has read the frame's bytes (R178). -/
def State.frameSent (s : State) (l : Line) : State :=
  let x := s.session l
  match x.sending with
  | .frame f _ :: rest =>
    if f.isClear || (f.isData && !x.reads.isEmpty) then s else s.afterSent l f { x with sending := rest, lastSent := f.wire }
  | _ => s

def frameSentEvent (line : Line) (s : State) : State := s.frameSent line

/-- R91, R107. -/
def State.burstSent (s : State) (l : Line) : State :=
  let x := s.session l
  match x.sending with
  | .burst _ :: rest =>
    let x := { x with sending := rest }
    if x.state = .clearing then s.setSession l x
    else if x.cancelPending then s.putSession l (x.clear .cancelled)
    else if x.state = .burst then s.putSession l { x with state := .burstSent, responseTimer := s.after Config.responseTime }
    else s.setSession l x
  | _ => s

def trainingBurstSentEvent (line : Line) (s : State) : State := s.burstSent line

/-! ## The timers (R87, R88, R101, R102) -/

/-- R101. SETUP that follows a burst names the ID as it stands (R109); a frame sent again, SETUP too, is the frame of the
first sending, with the ID that it named (log 31). -/
def State.responseTimeout (s : State) (l : Line) : State :=
  let x := s.session l
  match x.responseTimer with
  | none => s
  | some t =>
    let s := s.reach (some t)
    let x := { x with responseTimer := none }
    if 3 ≤ x.sendings then s.putSession l (x.clear .noResponse)
    else
      let x := { x with sendings := x.sendings + 1 }
      if x.state = .burstSent then
        s.putSession l ({ x with state := .setupSent, repeatBurst := true }.sendAwaited (.setup s.stationId (x.training.getD 1)))
      else
        match x.awaiting with
        | some f => s.putSession l (x.sendAwaited f)
        | none => s.putSession l x

def responseTimeoutEvent (line : Line) (s : State) : State := s.responseTimeout line

/-- R88. -/
def State.identTimeout (s : State) (l : Line) : State :=
  let x := s.session l
  if x.sends .waitIdent && x.identTimer.isSome then (s.reach x.identTimer).putSession l (x.clear .noResponse) else s

def identTimeoutEvent (line : Line) (s : State) : State := s.identTimeout line

/-- R87. -/
def State.identRepeat (s : State) (l : Line) : State :=
  let x := s.session l
  if x.receives .identSent && x.identTimer.isSome then
    let s := s.reach x.identTimer
    s.putSession l (s.sendIdent l x)
  else s

def identRepeatEvent (line : Line) (s : State) : State := s.identRepeat line

/-- R102. -/
def State.idleTimeout (s : State) (l : Line) : State :=
  let x := s.session l
  if x.role = .receiver ∧ x.state ≠ .clearing ∧ x.idleTimer.isSome then
    (s.reach x.idleTimer).putSession l (x.clear .noResponse)
  else s

def idleTimeoutEvent (line : Line) (s : State) : State := s.idleTimeout line

/-! ## Rows of the receiver: training (R89, R90) -/

/-- The receiver states in which SETUP is taken (R89). -/
def SessionState.takesSetup : SessionState → Bool
  | .identSent | .waitBurst | .waitHead | .receiving => true
  | _ => false

/-- R89. -/
def State.setupTaken (s : State) (l : Line) (id : List Byte) (step : Nat) (x : Session) : State :=
  if x.role = .receiver ∧ x.state.takesSetup then
    s.putSession l ({ x with remoteId := some id, training := some step, state := .waitBurst, identTimer := none }.send .ready 1)
  else s

def setupReceivedEvent (line : Line) (id : List Byte) (step : Nat) (s : State) : State :=
  s.takeFrame line (.setup id step) fun s x => s.setupTaken line id step x

/-- R90: the counts of the burst asked for. A burst of which none was asked is not taken (log 6); and after RETRY none is
asked, because the next begins with SETUP: the training step is absent from then on (DESIGN CHOICE, log 35). -/
def State.burstTaken (s : State) (l : Line) (bits ones : Nat) : State :=
  let x := s.session l
  match x.training with
  | none => s
  | some step =>
    if x.receives .waitBurst then
      let x := { x with training := none, idleTimer := s.after Config.idleTime }
      if burstPasses step bits ones then
        s.putSession l ({ x with negotiated := step, state := if x.page = 0 then .waitHead else .receiving }.send .ready 1)
      else s.putSession l (x.send .retry 1)
    else s

def trainingBurstReceivedEvent (line : Line) (bits ones : Nat) (s : State) : State := s.burstTaken line bits ones

/-! ## Rows of the receiver: pages (R94) -/

/-- No DATA frame of the session block in hand has been taken; the frames dropped at a refused allocation
had been (R96). -/
def Session.noneTaken (x : Session) : Bool := !x.frameMap.toList.any id && x.waitingData.isEmpty && !x.storeFailed

/-- R94, test 1. -/
def headAcceptable (width lines bytes : Nat) : Bool :=
  widthOk width && decide (lines ≤ 8191) && decide (bytes ≤ Config.maxCodeBytes)

/-- R94: the page that a PAGE_HEAD creates. -/
def Page.received (width lines bytes : Nat) (l : Line) (x : Session) : Page :=
  { Page.filling .received .received 0 width with
    lineCount := lines, codeBytes := bytes, line := some l, remoteId := x.remoteId, rateStep := some x.negotiated }

/-- R94: a repeat of the PAGE_HEAD whose READY was lost. -/
def State.headRepeated (s : State) (x : Session) (number width lines bytes : Nat) : Bool :=
  match s.page x.page with
  | some p =>
    number == x.position && width == p.width && lines == p.lineCount && bytes == p.codeBytes &&
      (x.blockNumber == 0 || (x.blockNumber == 1 && x.noneTaken))
  | none => false

/-- R94. -/
def State.headTaken (s : State) (l : Line) (number width lines bytes : Nat) (x : Session) : State :=
  if x.receives .waitHead then
    if !headAcceptable width lines bytes then s.putSession l (x.clear .remoteRefused)
    else if !x.more then s.putSession l (x.clear .protocol)
    else
      match s.store.pages.lowestFree with
      | none => s.putSession l ({ x with state := .waitClear }.sendData .storeFull)
      | some n =>
        (s.createPage n (Page.received width lines bytes l x)).putSession l
          ({ x with page := n, position := number, blockNumber := 0, storeFailed := false, frameMap := Vector.replicate 64 false,
                    state := .receiving }.sendData .ready)
  else if x.receives .receiving then
    s.putSession l (if s.headRepeated x number width lines bytes then x.sendData .ready else x.clear .protocol)
  else if x.receives .waitClear then s.putSession l (x.sendData .storeFull)
  else s

def pageHeadReceivedEvent (line : Line) (number width lines bytes : Nat) (s : State) : State :=
  s.takeFrame line (.pageHead number width lines bytes) fun s x => s.headTaken line number width lines bytes x

/-! ## Rows of the receiver: session blocks (R95 to R97) -/

/-- The bytes of a DATA frame at their places in the store (R17, R95). -/
def State.frameWrites (s : State) (x : Session) (n : Nat) (payload : List Byte) : List ByteWrite :=
  match s.page x.page with
  | some p => payload.zipIdx.map fun b => (s.codeAddr p (frameStart x.blockNumber n + b.2), b.1)
  | none => []

/-- R95: a frame goes on its way to the store and is held in the frame map. -/
def State.storeFrame (s : State) (x : Session) (n : Nat) (payload : List Byte) : Session :=
  { x with writes := x.writes ++ s.frameWrites x n payload, frameMap := x.frameMap.setIfInBounds n true }

/-- R95: the frame has the block in hand, a number below its frame count and the length R92 gives. -/
def State.dataFits (s : State) (x : Session) (block frame : Nat) (payload : List Byte) : Bool :=
  block == x.blockNumber && !x.storeFailed && decide (frame < blockFrames (s.sessionCodeBytes x) block) &&
    payload.length == frameLength (s.sessionCodeBytes x) block frame

/-- R95. -/
def State.dataTaken (s : State) (l : Line) (block frame : Nat) (payload : List Byte) (x : Session) : State :=
  if x.receives .receiving && s.dataFits x block frame payload then
    if x.allocAsked.isSome then s.setSession l { x with waitingData := x.waitingData ++ [(frame, payload)] }
    else if x.noneTaken then
      s.setSession l { x with
        allocAsked := some (ceilDiv (blockLength (s.sessionCodeBytes x) block) Config.blockBytes)
        waitingData := [(frame, payload)] }
    else s.setSession l (s.storeFrame x frame payload)
  else s

def dataReceivedEvent (line : Line) (block frame : Nat) (payload : List Byte) (s : State) : State :=
  s.takeFrame line (.data block frame payload) fun s x => s.dataTaken line block frame payload x

/-- R97, case 5: every write of the session block has reached DRAM. -/
def Session.blockOk (x : Session) : Session :=
  { x.sendData (.blockOk x.blockNumber) with
    blockNumber := x.blockNumber + 1, frameMap := Vector.replicate 64 false, drain := .none }

/-- The frames of a session block that are missing, in ascending order (R97). -/
def Session.missing (x : Session) (count : Nat) : List Nat :=
  (List.range count).filter fun n => !(x.frameMap.getD n false)

/-- R97, cases 3 to 6, for the block in hand. A second BLOCK_END taken while the answer waits for the writes is answered
with the first, by one BLOCK_OK (log 21). -/
def State.blockEndAnswer (s : State) (l : Line) (count : Nat) (x : Session) : State :=
  if x.storeFailed then s.putSession l ({ x with state := .waitClear }.sendData .storeFull)
  else if count ≠ blockFrames (s.sessionCodeBytes x) x.blockNumber then s.putSession l (x.clear .protocol)
  else if x.missing count = [] then
    s.putSession l (if x.writes.isEmpty then x.blockOk else { x with drain := .block })
  else s.putSession l (x.sendData (.gaps x.blockNumber (x.missing count)))

/-- R97. -/
def State.blockEndTaken (s : State) (l : Line) (block count : Nat) (x : Session) : State :=
  if x.receives .receiving then
    if block + 1 = x.blockNumber ∧ x.noneTaken then s.putSession l (x.sendData (.blockOk block))
    else if block ≠ x.blockNumber then s
    else if x.allocAsked.isSome then s.setSession l { x with waitingEnds := x.waitingEnds ++ [count] }
    else s.blockEndAnswer l count x
  else if x.receives .waitClear then s.putSession l (x.sendData .storeFull)
  else s

def blockEndReceivedEvent (line : Line) (block count : Nat) (s : State) : State :=
  s.takeFrame line (.blockEnd block count) fun s x => s.blockEndTaken line block count x

/-- R95: a BLOCK_END of the block that waited for the allocation is answered as R97 gives, also in a retraining that a
SETUP has opened meanwhile. -/
def State.answerWaiting (s : State) (l : Line) (block count : Nat) : State :=
  let x := s.session l
  if x.receives .waitBurst && block == x.blockNumber then s.blockEndAnswer l count x else s.blockEndTaken l block count x

/-- R8, R95, R96. -/
def State.receiveAllocate (s : State) (l : Line) : State :=
  let x := s.session l
  match x.allocAsked with
  | none => s
  | some n =>
    let x' := { x with allocAsked := none, waitingData := [], waitingEnds := [] }
    let s :=
      if n ≤ s.store.free.length then
        let s := s.giveBlocks x.page n
        s.setSession l (x.waitingData.foldl (fun y d => s.storeFrame y d.1 d.2) x')
      else (s.abortPage x.page).setSession l { x' with storeFailed := true, page := 0, writes := [] }
    x.waitingEnds.foldl (fun s count => s.answerWaiting l x.blockNumber count) s

def receiveAllocationEvent (line : Line) (s : State) : State := s.receiveAllocate line

/-- R97, case 5. -/
def State.blockDrained (s : State) (l : Line) : State :=
  let x := s.session l
  if x.drain = .block ∧ x.writes = [] then s.putSession l x.blockOk else s

def blockDataDrainedEvent (line : Line) (s : State) : State := s.blockDrained line

/-! ## Rows of the receiver: the end of a page (R99) -/

/-- R99: WAIT_HEAD follows RECEIVING. A retraining opened meanwhile goes on (log 21). -/
def SessionState.afterPage : SessionState → SessionState
  | .receiving => .waitHead
  | st => st

/-- R99: the FILLING page completes, its writes made, and PAGE_OK is answered. -/
def State.pageReceived (s : State) (l : Line) (more : Bool) : State :=
  let x := s.session l
  match s.page x.page with
  | none => s
  | some p =>
    let s := (s.setPage x.page (some { p with complete := true, completion := some s.clock.calendar })).queueOrKeep x.page (some l)
    let s := s.handReport
      { kind := .pageCompleted, page := x.page, line := some l, value1 := some p.lineCount, value2 := some p.codeBytes }
    s.putSession l ({ x with
      pagesDone := x.pagesDone + 1, more := more, page := 0, lastPage := x.page, drain := .none,
      state := x.state.afterPage }.sendData .pageOk)

/-- R99. Of several PAGE_END taken while the completion waits for its writes, the last gives `more`, and one PAGE_OK
answers them; a PAGE_END repeated in WAIT_HEAD leaves `more` as the completion set it (log 21). -/
def State.pageEndTaken (s : State) (l : Line) (more : Bool) (x : Session) : State :=
  if x.receives .receiving then
    if x.storeFailed = false ∧ x.blockNumber = sessionBlocks (s.sessionCodeBytes x) then
      if x.writes.isEmpty then s.pageReceived l more else s.setSession l { x with drain := .page more }
    else s.putSession l (x.clear .protocol)
  else if x.receives .waitHead && decide (0 < x.pagesDone) then s.putSession l (x.sendData .pageOk)
  else s

def pageEndReceivedEvent (line : Line) (more : Bool) (s : State) : State :=
  s.takeFrame line (.pageEnd more) fun s x => s.pageEndTaken line more x

/-- R99. -/
def State.pageDrained (s : State) (l : Line) : State :=
  match (s.session l).drain with
  | .page more => if (s.session l).writes.isEmpty then s.pageReceived l more else s
  | .block => s
  | .none => s

def pageDataDrainedEvent (line : Line) (s : State) : State := s.pageDrained line

/-! ## Frames not taken (R83, R196) -/

/-- R83: a frame with a check error changes nothing; a good frame of an unexpected kind restarts the
receiver's idle timer. -/
def frameRejectedEvent (line : Line) (bytes : List Byte) (s : State) : State :=
  if frameGood bytes then s.goodFrame line else s

/-! ## Cancel (R107) -/

/-- A cancel handed to the session engine of a CONNECTED call. A frame not yet begun is not sent. -/
def State.cancelSession (s : State) (l : Line) : State :=
  let x := s.session l
  if x.role = .sender ∧ x.state ≠ .clearing ∧ x.cancelPending = false then
    let x := { x.stopTimers with cancelPending := true, awaiting := none, inHand := [], sending := x.sending.take 1 }
    s.putSession l (if x.sending.isEmpty then x.clear .cancelled else x)
  else s

/-! ## The station ID (R109) -/

def setStationId (w1 w2 w3 w4 w5 : Word) (s : State) : State × Option Answer :=
  let id := idOfBytes (bytesOfWords [w1, w2, w3, w4, w5])
  if id.all idChar then (({ s with stationId := id } : State).postStationId).done id.length else s.refuse .badArgument

def setStationIdEvent (tag : Tag) (w1 w2 w3 w4 w5 : Word) (s : State) : State :=
  s.takeCommand 15 tag (setStationId w1 w2 w3 w4 w5)

end Sys2Proof.Machine
end

