-- ==== Sys2Proof/Machine/Calls.lean ====
section
/-! DEFINITION. The end of a call (R77) with what its neighbours do in that event: session, call record,
recipient, guard; and the rows that only end a call: CLEAR_SENT, CLEAR_RECEIVED, GUARD_EXPIRY and those
of a line that loses its carrier, its tone or its time. -/

namespace Sys2Proof.Machine

/-- The fields of the state word (R64). -/
def LineUnit.shown (u : LineUnit) : CallState × Option Direction × Nat := (u.state, u.direction, u.ringCount)

/-- A change of a line unit; its state word is posted when one of its fields changes (R64). -/
def State.changeLine (s : State) (l : Line) (f : LineUnit → LineUnit) : State :=
  let u := s.line l
  if (f u).shown = u.shown then s.setLine l (f u) else (s.setLine l (f u)).postLine l

/-- R77: the outputs released, the line in RECOVERY with its cause. -/
def LineUnit.rest (u : LineUnit) (cause : Cause) (recovered : Option Nat) : LineUnit :=
  { u with state := .recovery, endCause := some cause, phase := .none, ctone := false, ctoneTimer := none, timer := recovered }

/-- The step that the line's session hands on at its end; 0 when none sends or no training passed (R108). -/
def State.handedStep (s : State) (l : Line) : Nat :=
  if (s.session l).role = .sender then (s.session l).negotiated else 0

/-- What the end of a call means to the neighbours of the line unit: the session, and for an outgoing
call the charge unit and the dispatcher (R77, R108). -/
def State.tellEnd (s : State) (l : Line) (connected outgoing : Bool) (cause : Cause) : State :=
  let step := s.handedStep l
  let s := if connected then s.endSession l cause else s
  let s := if outgoing then (s.closeCall l cause step).settleRecipient l cause step else s
  { s with dispatch := { s.dispatch with cancelSent := s.dispatch.cancelSent.set l false } }

/-- R77: the call of an off-hook line ends; a line on-hook has none, and the request is dropped. -/
def State.endCall (s : State) (l : Line) (cause : Cause) : State :=
  let u := s.line l
  if u.hook then
    let s := s.changeLine l fun u => u.rest cause (s.after Config.recoveryTime)
    (s.tellEnd l (u.state == .connected) (u.direction == some .outgoing) cause).watchHooks
  else s

/-! ## CLEAR (R103 to R105) -/

/-- R103: the data pump reports CLEAR sent. -/
def State.clearSent (s : State) (l : Line) : State :=
  let x := s.session l
  match x.sending, x.endCause with
  | .frame f _ :: rest, some cause =>
    if x.state = .clearing ∧ f.isClear then
      (s.setSession l { x with sending := rest, lastSent := f.wire }).endCall l cause
    else s
  | _, _ => s

def clearSentEvent (line : Line) (s : State) : State := s.clearSent line

/-- R104, R105: the cause with which a CLEAR taken ends the call. -/
def causeOfClear (role : Role) (code : Nat) : Cause :=
  match clearCause code with
  | none => .protocol
  | some c =>
    match role with
    | .sender => if c = .remoteRefused ∨ c = .protocol ∨ c = .remoteFull ∨ c = .noResponse then c else .protocol
    | .receiver => c
    | .none => c

/-- R104, R105. -/
def State.clearTaken (s : State) (l : Line) (code : Nat) (x : Session) : State :=
  if x.role = .none ∨ x.state = .clearing then s else s.endCall l (causeOfClear x.role code)

def clearReceivedEvent (line : Line) (cause : Nat) (s : State) : State :=
  s.takeFrame line (.clear cause) fun s x => s.clearTaken line cause x

/-! ## Causes of the line (R69, R71, R73, R76) -/

/-- The line waits for dial tone: at the seize, or in a W (R69, R71). -/
def LineUnit.awaitsDialTone (u : LineUnit) : Bool :=
  (u.state == .seized && !(u.seizeSettings.map (·.blind)).getD false) || (u.state == .dialling && u.phase == .waitTone)

def dialToneTimeoutEvent (line : Line) (s : State) : State :=
  let u := s.line line
  if u.awaitsDialTone then (s.reach u.timer).endCall line .noDialTone else s

/-- R73: the classes of a cycle. -/
def busyCycle (on off : Nat) : Bool := decide (200 ≤ on) && decide (on ≤ 700) && decide (200 ≤ off) && decide (off ≤ 700)

def ringbackCycle (on off : Nat) : Bool :=
  decide (700 ≤ on) && decide (on ≤ 2500) && decide (1500 ≤ off) && decide (off ≤ 5000)

/-- R73. -/
def State.toneCycle (s : State) (l : Line) (on off : Nat) : State :=
  let u := s.line l
  if u.state = .progress then
    if busyCycle on off then
      let s := s.setLine l { u with busyRun := u.busyRun + 1 }
      if 3 ≤ u.busyRun + 1 then s.endCall l .busy else s
    else if ringbackCycle on off then
      let s := s.setLine l { u with busyRun := 0, ringbacks := u.ringbacks + 1 }
      if 10 ≤ u.ringbacks + 1 then s.endCall l .noAnswer else s
    else s.setLine l { u with busyRun := 0 }
  else s

def toneCycleEndEvent (line : Line) (onMs offMs : Nat) (s : State) : State := s.toneCycle line onMs offMs

def faultToneEvent (line : Line) (s : State) : State :=
  if (s.line line).state = .progress then s.endCall line .faultTone else s

def progressTimeoutEvent (line : Line) (s : State) : State :=
  let u := s.line line
  if u.state = .progress then (s.reach u.timer).endCall line .noAnswer else s

def carrierLostEvent (line : Line) (s : State) : State :=
  if (s.line line).state = .connected then s.endCall line .carrierLost else s

/-! ## The guard's expiry (R81, R191) -/

/-- The off-hook lines (R64). -/
def State.offHookCount (s : State) : Nat := s.lines.a.hook.toNat + s.lines.b.hook.toNat

/-- R191. -/
def State.guardExpire (s : State) : State :=
  match s.guard.deadline with
  | none => s
  | some d =>
    let s := s.reach (some d)
    let n := s.offHookCount
    let s := (s.endCall .A .guard).endCall .B .guard
    let s : State := { s with guard := { s.guard with expired := true, deadline := none } }
    (s.handReport { kind := .guardExpired, value1 := some (s.guard.period.getD 0), value2 := some n }).postGuard

def guardExpiryEvent (s : State) : State := s.guardExpire

end Sys2Proof.Machine
end

