-- ==== Sys2Proof/Machine/Lines.lean ====
section
/-! DEFINITION. Chapter 4, the line units: ringing and answering, dialling, call progress, the answer,
meter pulses, recovery, and the commands SET_LINE_MODE, SET_RINGS, SET_LINE_OPTIONS and HANG_UP. The seize
is in Dispatcher.lean. -/

namespace Sys2Proof.Machine

/-! ## Ringing and answering (R66, R67, R80) -/

def LineMode.answers : LineMode → Bool
  | .answerOnly | .both => true
  | .sendOnly | .outOfService => false

/-- R67. -/
def State.answeringTest (s : State) (l : Line) : Bool :=
  let u := s.line l
  decide (u.settings.rings ≤ u.ringCount) && u.settings.mode.answers && !s.guard.expired

/-- R67: the test is applied; passed, the line is ANSWERING. -/
def State.tryAnswer (s : State) (l : Line) : State :=
  if s.answeringTest l then
    s.changeLine l fun u =>
      { u with state := .answering, direction := some .incoming, ringCount := 0, timer := s.after Config.answerTone }
  else s

/-- R66: the gap runs 8 s from the end of the presence, which lasts on for its length less the 200 ms that had passed at
the burst (log 24). -/
def State.gapEnd (s : State) (presenceMs : Nat) : Option Nat := s.after ((presenceMs - 200) * Config.ms + Config.ringGap)

/-- R66, R80: the line as it starts ringing. -/
def LineUnit.ring (u : LineUnit) (gap : Option Nat) : LineUnit :=
  { u with
    state := .ringing, direction := some .incoming, ringCount := 1, number := none, endCause := none, phase := .none,
    ctone := false, ctoneTimer := none, timer := gap }

/-- R80. -/
def State.glare (s : State) (l : Line) (gap : Option Nat) : State :=
  let s := s.changeLine l fun u => u.ring gap
  (s.tellEnd l false true .glare).tryAnswer l

/-- R66, R80: what a burst does, by call state. -/
def State.ringBurst (s : State) (l : Line) (gap : Option Nat) : State :=
  let u := s.line l
  match u.state with
  | .idle => (s.changeLine l fun u => u.ring gap).tryAnswer l
  | .recovery => (s.changeLine l fun u => u.ring gap).tryAnswer l
  | .ringing => (s.changeLine l fun u => { u with ringCount := min 255 (u.ringCount + 1), timer := gap }).tryAnswer l
  | .seized => s.glare l gap
  | .dialling => if u.firstEnded then s else s.glare l gap
  | .answering => s
  | .progress => s
  | .connected => s

/-- A line that is not fitted counts no burst; the guard is told when the burst changes the line's hook (R64, R190). -/
def ringBurstEvent (burst : RingPresence) (s : State) : State :=
  if s.fitted burst.line then
    let t := s.ringBurst burst.line (s.gapEnd burst.presenceMs)
    if (t.line burst.line).hook = (s.line burst.line).hook then t else t.watchHooks
  else s

/-- R66, R78, R79: the line becomes IDLE, its direction, number and end cause cleared. -/
def LineUnit.toIdle (u : LineUnit) : LineUnit :=
  { u with state := .idle, direction := none, number := none, endCause := none, ringCount := 0, timer := none }

def ringGapTimeoutEvent (line : Line) (s : State) : State :=
  let u := s.line line
  if u.state = .ringing then (s.reach u.timer).changeLine line LineUnit.toIdle else s

/-- R67: the 2.0 s of ATONE end. -/
def answerToneEndEvent (line : Line) (s : State) : State :=
  let u := s.line line
  if u.state = .answering then
    ((s.reach u.timer).changeLine line fun u => { u with state := .connected, timer := none }).startReceiver line
  else s

/-- R78. -/
def recoveryEndEvent (line : Line) (s : State) : State :=
  let u := s.line line
  if u.state = .recovery then (s.reach u.timer).changeLine line LineUnit.toIdle else s

/-! ## Dialling (R69 to R71) -/

/-- R72: entry into PROGRESS, with the first calling burst. -/
def LineUnit.enterProgress (u : LineUnit) (now : Nat) : LineUnit :=
  { u with
    state := .progress, phase := .none, firstEnded := true, timer := some (now + Config.progressLimit), ctone := true,
    ctoneTimer := some (now + Config.ctoneBurst) }

def LineUnit.pulseDials (u : LineUnit) : Bool := (u.seizeSettings.map (·.method)).getD .tone == .pulse

/-- R70: the breaks of a digit. -/
def breaksOf (d : Fin 10) : Nat := if d.val = 0 then 10 else d.val

/-- R70, R71: the symbols from the next one on, begun at an instant: skipped symbols take no time, and
after the last the line is in PROGRESS. -/
def LineUnit.beginSymbol : List Symbol → LineUnit → Nat → LineUnit
  | [], u, now => u.enterProgress now
  | sym :: rest, u, now =>
    match sym with
    | .pause => { u with phase := .pause, timer := some (now + Config.pauseTime) }
    | .wait => { u with phase := .waitTone, timer := some (now + Config.dialToneWait) }
    | .digit d =>
      if u.pulseDials then { u with phase := .brk (breaksOf d - 1), timer := some (now + Config.breakTime) }
      else { u with phase := .strobe (.digit d), timer := some (now + Config.strobeTime) }
    | .star =>
      if u.pulseDials then LineUnit.beginSymbol rest { u with nextSymbol := u.nextSymbol + 1 } now
      else { u with phase := .strobe .star, timer := some (now + Config.strobeTime) }
    | .hash =>
      if u.pulseDials then LineUnit.beginSymbol rest { u with nextSymbol := u.nextSymbol + 1 } now
      else { u with phase := .strobe .hash, timer := some (now + Config.strobeTime) }

/-- The symbols of the number from the next one on. -/
def LineUnit.symbolsLeft (u : LineUnit) : List Symbol := (u.number.getD []).drop u.nextSymbol

/-- R70, R71: the symbol in hand ends at an instant. After a pulse digit that another symbol follows the
loop is made for 800 ms. -/
def LineUnit.endSymbol (u : LineUnit) (now : Nat) (pulseDigit : Bool) : LineUnit :=
  let u := { u with nextSymbol := u.nextSymbol + 1, firstEnded := true }
  if pulseDigit && !u.symbolsLeft.isEmpty then { u with phase := .interDigit, timer := some (now + Config.interDigitTime) }
  else u.beginSymbol u.symbolsLeft now

/-- R69: the line becomes DIALLING and begins the first symbol. -/
def State.beginDialling (s : State) (l : Line) : State :=
  s.changeLine l fun u => { u with state := .dialling }.beginSymbol u.symbolsLeft s.clock.now

/-- A dialling event gives the line unit its next value. -/
def State.dialStep (s : State) (l : Line) (u : LineUnit) : State := s.changeLine l fun _ => u

def dialToneRecognisedEvent (line : Line) (s : State) : State :=
  let u := s.line line
  if u.awaitsDialTone then
    if u.state = .seized then s.beginDialling line else s.dialStep line (u.endSymbol s.clock.now false)
  else s

def blindDialDelayEndEvent (line : Line) (s : State) : State :=
  let u := s.line line
  if u.state = .seized ∧ (u.seizeSettings.map (·.blind)).getD false then (s.reach u.timer).beginDialling line else s

/-- R70: the strobe ends, and nothing is presented for 90 ms. -/
def State.strobeEnd (s : State) (l : Line) : State :=
  let u := s.line l
  match u.phase with
  | .strobe _ =>
    let s := s.reach u.timer
    s.setLine l { u with phase := .gap, timer := s.after Config.strobeTime }
  | _ => s

def dtmfStrobeEndEvent (line : Line) (s : State) : State := s.strobeEnd line

/-- R70: a break or a make of a pulse digit ends. The end of the last break is the end of the symbol. -/
def State.breakEnd (s : State) (l : Line) : State :=
  let u := s.line l
  match u.phase with
  | .brk (n + 1) =>
    let s := s.reach u.timer
    s.setLine l { u with phase := .mk n, timer := s.after Config.makeTime }
  | .brk 0 =>
    let s := s.reach u.timer
    s.dialStep l (u.endSymbol s.clock.now true)
  | .mk n =>
    let s := s.reach u.timer
    s.setLine l { u with phase := .brk n, timer := s.after Config.breakTime }
  | _ => s

def dialBreakEndEvent (line : Line) (s : State) : State := s.breakEnd line

/-- R70, R71: the symbol in hand ends: the silence after a DTMF digit, a pause, or the last break of a
pulse digit (log 19). -/
def State.symbolEnd (s : State) (l : Line) : State :=
  let u := s.line l
  match u.phase with
  | .gap =>
    let s := s.reach u.timer
    s.dialStep l (u.endSymbol s.clock.now false)
  | .pause =>
    let s := s.reach u.timer
    s.dialStep l (u.endSymbol s.clock.now false)
  | .brk 0 =>
    let s := s.reach u.timer
    s.dialStep l (u.endSymbol s.clock.now true)
  | _ => s

def symbolEndEvent (line : Line) (s : State) : State := s.symbolEnd line

/-- R70: the next symbol begins. -/
def State.interDigitEnd (s : State) (l : Line) : State :=
  let u := s.line l
  match u.phase with
  | .interDigit =>
    let s := s.reach u.timer
    s.dialStep l (u.beginSymbol u.symbolsLeft s.clock.now)
  | _ => s

def interDigitMakeEndEvent (line : Line) (s : State) : State := s.interDigitEnd line

/-! ## Call progress (R72, R74, R75) -/

/-- R72: a calling burst begins. -/
def ctoneBurstStartEvent (line : Line) (s : State) : State :=
  let u := s.line line
  if u.state = .progress ∧ u.ctone = false then
    let s := s.reach u.ctoneTimer
    s.setLine line { u with ctone := true, ctoneTimer := s.after Config.ctoneBurst }
  else s

/-- R72: a calling burst ends; the next begins 3 s after it began. -/
def ctoneBurstEndEvent (line : Line) (s : State) : State :=
  let u := s.line line
  if u.state = .progress ∧ u.ctone = true then
    let s := s.reach u.ctoneTimer
    s.setLine line { u with ctone := false, ctoneTimer := s.after (Config.ctonePeriod - Config.ctoneBurst) }
  else s

/-- R74: the answer event, with the tariff as its reads have brought it. -/
def State.answer (s : State) (l : Line) : State :=
  ((s.changeLine l fun u => { u with state := .connected, timer := none, ctone := false, ctoneTimer := none }).answerCharge
    l).startSender l

/-- R75: a presence of 40..200 ms on an outgoing call is a meter pulse. -/
def meterPulseEvent (line : Line) (presenceMs : Nat) (s : State) : State :=
  let u := s.line line
  if u.hook ∧ u.direction = some .outgoing ∧ 40 ≤ presenceMs ∧ presenceMs ≤ 200 then
    let n := min 65535 (u.pulses + 1)
    (s.setLine line { u with pulses := n }).pulseCharge line n (decide (u.pulses < 65535))
  else s

/-! ## Commands (R62, R63, R79) -/

/-- R62: the test of a line argument, and then the command's own part. -/
def withLine (line : Word) (act : Line → State → State × Option Answer) (s : State) : State × Option Answer :=
  match lineOfWord line with
  | none => s.refuse .badArgument
  | some l => if s.fitted l then act l s else s.refuse .noSuch

/-- R61: a change of a line's settings, posted. -/
def State.changeSettings (s : State) (l : Line) (f : LineSettings → LineSettings) : State :=
  let u := s.line l
  if f u.settings = u.settings then s else (s.setLine l { u with settings := f u.settings }).postSettings l

/-- R62. -/
def setLineMode (line mode : Word) : State → State × Option Answer :=
  withLine line fun l s =>
    match lineModeOf mode.toNat with
    | none => s.refuse .badArgument
    | some m => (s.changeSettings l fun x => { x with mode := m }).done 0

def setLineModeEvent (tag : Tag) (line mode : Word) (s : State) : State :=
  s.takeCommand 11 tag (setLineMode line mode)

/-- R63: 1..9. -/
def clampRings (n : Nat) : Nat := max 1 (min n 9)

/-- R63. -/
def setRings (line count : Word) : State → State × Option Answer :=
  withLine line fun l s =>
    let n := clampRings count.toNat
    (s.changeSettings l fun x => { x with rings := n }).done n

def setRingsEvent (tag : Tag) (line count : Word) (s : State) : State := s.takeCommand 12 tag (setRings line count)

/-- R63: 1..4. -/
def clampStep (n : Nat) : Nat := max 1 (min n 4)

/-- R63. -/
def setLineOptions (line method blind metered maxStep : Word) : State → State × Option Answer :=
  withLine line fun l s =>
    match dialMethodOf method.toNat with
    | none => s.refuse .badArgument
    | some m =>
      let n := clampStep maxStep.toNat
      (s.changeSettings l fun x =>
        { x with method := m, blind := decide (blind ≠ 0), metered := decide (metered ≠ 0), maxStep := n }).done n

def setLineOptionsEvent (tag : Tag) (line method blind metered maxStep : Word) (s : State) : State :=
  s.takeCommand 13 tag (setLineOptions line method blind metered maxStep)

/-- R79. -/
def hangUp (line : Word) : State → State × Option Answer :=
  withLine line fun l s =>
    let u := s.line l
    if u.hook then (s.endCall l .hungUp).done 1
    else if u.state = .ringing then (s.changeLine l LineUnit.toIdle).done 0
    else s.done 0

def hangUpEvent (tag : Tag) (line : Word) (s : State) : State := s.takeCommand 14 tag (hangUp line)

end Sys2Proof.Machine
end

