-- ==== Sys2Proof/Machine/Reads.lean ====
section
/-! DEFINITION. An event that waits (R176): the accesses that the arbiter grants until the list has room for what the event
adds, and those until the last of its reads of the tariff area or of the timetable has been made; and the choice that such
reads serve (R123, R137). -/

namespace Sys2Proof.Machine

/-! ## The port while an event waits (R176, R178, R179) -/

/-- The word of the bus comes after an event that waits: it reaches a field of one of the desks on which the event acts
(R176). -/
def State.afterReads (s : State) (desks : List Nat) (op : BusOp) : Bool :=
  match op with
  | .write w _ _ =>
    s.usesPort op && (match s.path.areaOf w with
      | .control place =>
        (match controlKind place with
         | .deskField d _ => desks.contains d
         | .hostWritable | .tariff | .commandProducer | .reportConsumer | .logConsumer | .guardWord | .clockWord0 | .clockWord3
         | .partOwned => false)
      | _ => false)
  | .read _ _ => false

/-- The access of the bus while an event waits: the word at the port with its run, and the words behind it as they are
decided, up to the first that comes after the event. -/
def State.busStep (s : State) (desks : List Nat) : State :=
  let before := s.path.stalled.takeWhile fun op => !s.afterReads desks op
  let behind := s.path.stalled.dropWhile fun op => !s.afterReads desks op
  let s := ((({ s with path := { s.path with stalled := before } } : State).leavePort .bus).portAccess .bus).resumeBus
  { s with path := { s.path with stalled := s.path.stalled ++ behind } }

/-- R176: the list has room for all that the event adds in this state: nothing of it is left standing behind the list. An
event that adds more than a whole list holds is taken once the list is empty (log 9). -/
def State.findsRoom (s : State) (act : State → State) : Bool :=
  s.path.items.isEmpty || decide ((act s).path.waiting.length ≤ s.path.waiting.length)

/-- The word of the bus at the port cannot be made while the event waits: it comes after the event, or its own event waits
for room (R176). -/
def State.busWaitsToo (s : State) (desks : List Nat) (op : BusOp) : Bool :=
  s.afterReads desks op || !s.findsRoom fun s => s.busStep desks

/-- The grant while an event waits: that of R179, in which a word of the bus that waits too does not ask. -/
def State.readGrant (s : State) (desks : List Nat) : Option Requester :=
  let r := s.path.requests
  (if s.path.atPort.any (s.busWaitsToo desks) then { r with bus := none } else r).grant s.clock.now

/-- One access at the DRAM port while an event waits: that of the poster's item at the port, or that of the
requester the arbiter grants once the access of the bus under way has ended (R179, log 13). -/
def State.portStep (s : State) (desks : List Nat) : State :=
  if s.path.headHanded then s.handHead.askPort
  else
    let s := s.endRun
    match s.readGrant desks with
    | none => s
    | some .bus => (s.busStep desks).askPort
    | some e => ((s.leavePort e).portAccess e).askPort

/-- The accesses made until no read of the event is left to make, at most as many as are given. -/
def State.portSteps (desks : List Nat) : Nat → State → State
  | 0, s => s
  | n + 1, s => if s.path.items.any PostItem.isEventRead then State.portSteps desks n (s.portStep desks) else s

/-- The code bytes of the page in decoding that lie beyond those read. -/
def State.codeLeft (s : State) : Nat :=
  match s.page s.render.page with
  | some p => p.codeBytes - (s.render.codePos / 8 + s.render.got)
  | none => 0

/-- The accesses that the session engine can still ask for. -/
def Session.portWork (x : Session) : Nat := x.writes.length + x.reads.length

/-- More accesses than can come before the last item of the list: two turns for each item, one for each byte that an
engine has to write or read, and for each word of the bus all that its observers may add to the list. -/
def State.portWork (s : State) : Nat :=
  2 * s.path.items.length + s.coder.writes.length + s.coder.width.getD 0 / 8 + s.render.writes.length + s.codeLeft +
    s.sessions.a.portWork + s.sessions.b.portWork + 4096 * (s.path.atPort.toList.length + s.path.stalled.length) + 2

/-- R176: an event that acts on the desks given asks for its reads, given by offset from C and words, and is taken when the
last of them has been made; the state in which it is taken (log 10). -/
def State.readNow (s : State) (desks : List Nat) (asker : Asker) (reads : List (Nat × Nat)) : State :=
  let s := (s.askReads asker reads).askPort
  State.portSteps desks s.portWork s

/-! ## Room in the list (R176) -/

/-- The accesses made until the list has room for what the event adds, at most as many as are given. -/
def State.roomSteps (desks : List Nat) (act : State → State) : Nat → State → State
  | 0, s => s
  | n + 1, s =>
    if s.findsRoom act && !s.path.headHanded then s else State.roomSteps desks act n (s.portStep desks)

/-- R176: an event that acts on the desks given and finds no room in the list waits to be taken until the poster has handed
the items ahead; the state in which it is taken (log 9). -/
def State.awaitRoom (s : State) (desks : List Nat) (act : State → State) : State :=
  if s.findsRoom act then s else State.roomSteps desks act s.portWork s.askPort

/-- R176: the event is taken as soon as the list has room for it. -/
def State.awaited (s : State) (desks : List Nat) (act : State → State) : State := act (s.awaitRoom desks act)

/-- The end of a row that may end a hold, or leave the port to the words of the bus. -/
def State.settleBus (s : State) : Host.Outcome State Fault Refusal := (s.awaited [] State.resumeBus).settle

/-! ## The choice (R123, R125) -/

/-- The desks on which a choice acts: those of the NORMAL jobs with an eligible recipient, which its gate may test (R124,
log 10). -/
def State.choiceDesks (s : State) : List Nat :=
  (List.range 16).filterMap fun j =>
    ((s.job (j + 1)).filter fun x => x.priority == .normal && (x.firstEligible s.clock.uptime).isSome).map (·.desk)

/-- When there is a choice to make, its reads and, with their data, the choice, in an event that acts on the desks given. -/
def State.choose (s : State) (desks : List Nat) : State :=
  if s.choiceLine.isSome then (s.readNow desks .charge choiceReads).awaited desks State.chooseNow else s

/-- R123: the dispatcher chooses: it asks for all the reads of its choice, which is taken when the last has been made
(R176). -/
def State.makeChoice (s : State) : State := if s.choiceLine.isSome then (s.choose s.choiceDesks).endReads else s

end Sys2Proof.Machine
end

