-- ==== Sys2Proof/Machine/Dispatcher.lean ====
section
/-! DEFINITION. Chapter 6, the dispatcher: the seize, cancels, and the commands of jobs. The choice is in
Choice.lean, and the rows of the choice and of the seize in ReadRows.lean. -/

namespace Sys2Proof.Machine

/-! ## The seize (R68, R126) -/

/-- R68: the line as a seize takes it. -/
def LineUnit.seize (u : LineUnit) (number : List Symbol) (now : Nat) : LineUnit :=
  { u with
    state := .seized, direction := some .outgoing, number := some number, nextSymbol := 0, firstEnded := false,
    seizeSettings := some ⟨u.settings.method, u.settings.blind, u.settings.metered⟩, pulses := 0, busyRun := 0, ringbacks := 0,
    endCause := none, phase := .none,
    timer := some (now + if u.settings.blind then Config.blindDelay else Config.dialToneWait) }

/-- R126: the recipient and its job in the event of the seize. -/
def State.placeOnLine (s : State) (l : Line) (j i : Nat) (x : Job) (r : Recipient) (sequence : Nat) : State :=
  let r' := { r with state := .onLine, lastLine := some l, attempts := r.attempts + 1, lastCall := some sequence }
  let s := (s.setJob j (some { x with state := if x.state = .ready then .active else x.state })).setRecipient j i r'
  let s : State := { s with dispatch := { s.dispatch with serving := s.dispatch.serving.set l (some (j, i)) } }
  ((s.postRecipient j i).postJob j).postDispatch

/-- R68, R126: the seize is accepted. -/
def State.acceptSeize (s : State) (l : Line) (j i : Nat) (x : Job) (r : Recipient) : State :=
  let sequence := s.charge.callSeq
  let metered := (s.line l).settings.metered
  let s := s.changeLine l fun u => u.seize r.number s.clock.now
  let s := s.openCall l j x.desk i r.number metered
  (s.placeOnLine l j i x r sequence).watchHooks

/-- R126: a refused line A gives way to line B. -/
def State.refuseSeize (s : State) (l : Line) (j i : Nat) : State :=
  if l = .A ∧ s.freeForDispatch .B then { s with dispatch := { s.dispatch with asked := some (.B, j, i) } } else s

/-- R68, R126: the line unit takes the seize asked for on it. -/
def State.takeSeize (s : State) (l : Line) : State :=
  match s.dispatch.asked with
  | none => s
  | some (l', j, i) =>
    if l' = l then
      let s : State := { s with dispatch := { s.dispatch with asked := none } }
      match s.job j, s.recipient j i with
      | some x, some r =>
        if r.eligible x s.clock.uptime then
          if s.freeForDispatch l then s.acceptSeize l j i x r else s.refuseSeize l j i
        else s
      | _, _ => s
    else s

/-- The line's meter price (R137). -/
def meterReads (l : Line) : List (Nat × Nat) := [(meterPlace + lineCode l, 1)]

/-- The seize asked for on the line will be accepted (R68, R126). -/
def State.willSeize (s : State) (l : Line) : Bool :=
  match s.dispatch.asked with
  | none => false
  | some (l', j, i) =>
    decide (l' = l) && s.freeForDispatch l && (match s.job j, s.recipient j i with
      | some x, some r => r.eligible x s.clock.uptime
      | _, _ => false)

/-- R137: an accepted seize reads the prefix table, and on a metered line its price. -/
def State.seizeReads (s : State) (l : Line) : List (Nat × Nat) :=
  if (s.line l).settings.metered then prefixReads ++ meterReads l else prefixReads

/-- The desk whose record the seize counts its call in (R138). -/
def State.seizeDesks (s : State) : List Nat :=
  (s.dispatch.asked.bind fun a => (s.job a.2.1).map (·.desk)).toList

/-- R68, R123, R126: the seize asked for on the line is taken, accepted once its reads have been made; after an accepted
seize the dispatcher chooses again, for the other line, in the same event (log 16). -/
def State.seizeEvent (s : State) (l : Line) : State :=
  if s.willSeize l then
    ((s.readNow s.seizeDesks .charge (s.seizeReads l)).awaited s.seizeDesks fun s => s.takeSeize l).endReads.makeChoice
  else s.takeSeize l

/-- The seizes asked for recipients of the job that `which` picks are taken, as many as are given. -/
def State.takeSeizes (j : Nat) (which : Nat → Bool) : Nat → State → State
  | 0, s => s
  | n + 1, s =>
    match s.dispatch.asked with
    | none => s
    | some (l, j', i) => if j' = j ∧ which i then State.takeSeizes j which n (s.seizeEvent l) else s

/-- R123: a choice taken before a cancel makes its recipient ON_LINE before the cancel finds it: the seize that it has asked
for is taken ahead of the cancel, and so is one that follows in the same event: on line B after a refusal on line A, or for
line B after line A. -/
def State.seizeFirst (s : State) (j : Nat) (which : Nat → Bool) : State := State.takeSeizes j which 2 s

/-! ## Cancels (R107, R120) -/

/-- R120: the cancel reaches the line unit. -/
def State.cancelArrives (s : State) (l : Line) : State :=
  let s : State := { s with dispatch := { s.dispatch with cancelSent := s.dispatch.cancelSent.set l false } }
  let u := s.line l
  if u.direction = some .outgoing then
    match u.state with
    | .seized => s.endCall l .cancelled
    | .dialling => s.endCall l .cancelled
    | .progress => s.endCall l .cancelled
    | .connected => s.cancelSession l
    | _ => s
  else s

/-- R120: a cancel that the dispatcher has sent to the line reaches it. -/
def State.lineCancel (s : State) (l : Line) : State := if s.dispatch.cancelSent.get l then s.cancelArrives l else s

def lineCancelEvent (line : Line) (s : State) : State := s.lineCancel line

/-- R107, R120: a cancel is sent to a line; the session engine of a CONNECTED call has it in the event
of the command, a line unit in an event of its own (log 17). -/
def State.sendCancel (s : State) (l : Line) : State :=
  if (s.line l).state = .connected then s.cancelSession l
  else { s with dispatch := { s.dispatch with cancelSent := s.dispatch.cancelSent.set l true } }

/-- The line serves a recipient of the job that `which` picks. -/
def State.serves (s : State) (l : Line) (j : Nat) (which : Nat → Bool) : Bool :=
  match s.dispatch.serving.get l with
  | some (j', i) => j' == j && which i
  | none => false

/-- Cancels to the lines that serve the recipients picked, line A first. -/
def State.cancelLines (s : State) (j : Nat) (which : Nat → Bool) : State :=
  let s := if s.serves .A j which then s.sendCancel .A else s
  if s.serves .B j which then s.sendCancel .B else s

/-! ## Commands (R113 to R121) -/

def clampAttempts (n : Nat) : Nat := max 1 (min n 9)
def clampInterval (n : Nat) : Nat := max 1 (min n 60)

/-- R113: the job as it is created. -/
def Job.created (desk : Nat) (priority : Priority) (release : Release) (attempts interval : Nat) : Job :=
  { state := .assembling, desk := desk, priority := priority, release := release, maxAttempts := clampAttempts attempts,
    interval := clampInterval interval, submitSeq := none, pageList := [], recipients := [], done := 0, failed := 0, cancelled := 0 }

/-- R113. -/
def createJob (desk priority release maxAttempts interval : Word) (s : State) : State × Option Answer :=
  match priorityOf priority.toNat, releaseOf release.toNat with
  | some p, some r =>
    if 31 < desk.toNat then s.refuse .badArgument
    else
      match s.dispatch.jobs.lowestFree with
      | none => s.refuse .full
      | some j => ((s.setJob j (some (Job.created desk.toNat p r maxAttempts.toNat interval.toNat))).postJob j).done j
  | _, _ => s.refuse .badArgument

def createJobEvent (tag : Tag) (desk priority release maxAttempts interval : Word) (s : State) : State :=
  s.takeCommand 16 tag (createJob desk priority release maxAttempts interval)

/-- R112: a recipient as it is added. -/
def Recipient.added (number : List Symbol) : Recipient :=
  { number := number, state := .waiting, attempts := 0, pagesConfirmed := 0, nextTry := 0, cancelMark := false,
    lastCause := none, lastLine := none, lastStep := none, lastCall := none }

/-- R114 and others: the test of a job argument, and then the command's own part. -/
def withJob (job : Word) (act : Nat → Job → State → State × Option Answer) (s : State) : State × Option Answer :=
  match s.job job.toNat with
  | none => s.refuse .noSuch
  | some x => act job.toNat x s

/-- R114. -/
def addRecipient (job n1 n2 n3 n4 : Word) : State → State × Option Answer :=
  withJob job fun j x s =>
    if x.state ≠ .assembling then s.refuse .state
    else
      match numberOfWords [n1, n2, n3, n4] with
      | none => s.refuse .badArgument
      | some number =>
        if 32 ≤ x.recipients.length then s.refuse .full
        else
          let s := s.setJob j (some { x with recipients := x.recipients ++ [Recipient.added number] })
          ((s.postRecipient j x.recipients.length).postJob j).done x.recipients.length

def addRecipientEvent (tag : Tag) (job n1 n2 n3 n4 : Word) (s : State) : State :=
  s.takeCommand 17 tag (addRecipient job n1 n2 n3 n4)

/-- The capture context is OPEN or FULL for the job (R116, R118). -/
def State.capturesFor (s : State) (j : Nat) : Bool := s.coder.state != .idle && s.coder.job == j

/-- The records of the recipients of a job at the indices that `which` picks, posted. -/
def State.postRecipients (s : State) (j : Nat) (which : Nat → Bool) : State :=
  match s.job j with
  | none => s
  | some x => ((List.range x.recipients.length).filter which).foldl (fun s i => s.postRecipient j i) s

/-- R116: the job as it is submitted. -/
def Job.submit (x : Job) (sequence uptime : Nat) : Job :=
  { x.mapRecipients (fun r => { r with nextTry := uptime }) with
    submitSeq := some sequence, state := if x.release = .timetable then .held else .ready }

/-- R116. -/
def submitJob (job : Word) : State → State × Option Answer :=
  withJob job fun j x s =>
    if x.state ≠ .assembling ∨ s.capturesFor j then s.refuse .state
    else if x.pageList = [] ∨ x.recipients = [] then s.refuse .empty
    else
      let sequence := s.dispatch.submitSeq
      let s := s.setJob j (some (x.submit sequence s.clock.uptime))
      let s : State := { s with dispatch := { s.dispatch with submitSeq := nextSequence sequence } }
      (((s.postJob j).postRecipients j fun _ => true).postDispatch).done sequence

def submitJobEvent (tag : Tag) (job : Word) (s : State) : State := s.takeCommand 18 tag (submitJob job)

/-- R117: a HELD job becomes READY. -/
def State.releaseHeld (s : State) (j : Nat) : State := s.changeJob j fun x => { x with state := .ready }

/-- R117. -/
def releaseJob (job : Word) : State → State × Option Answer :=
  withJob job fun j x s => if x.state = .held then (s.releaseHeld j).done 0 else s.refuse .state

def releaseJobEvent (tag : Tag) (job : Word) (s : State) : State := s.takeCommand 19 tag (releaseJob job)

/-- R118: what a cancel of the job makes of a recipient. -/
def Recipient.cancel (r : Recipient) : Recipient :=
  match r.state with
  | .waiting => { r with state := .cancelled }
  | .onLine => { r with cancelMark := true }
  | _ => r

def Job.waitingCount (x : Job) : Nat := x.recipients.countP fun r => r.state == .waiting

/-- R118, steps 2 and 3: the job record. -/
def Job.cancel (x : Job) : Job := { x.mapRecipients Recipient.cancel with cancelled := x.cancelled + x.waitingCount }

/-- R118, after the seizes asked for its recipients (R123). Its records are posted recipients first, then the header; R118
gives no order (DESIGN CHOICE, log 28). -/
def cancelJob (job : Word) (s : State) : State × Option Answer :=
  (s.seizeFirst job.toNat fun _ => true) |> withJob job fun j x s =>
    if x.state = .finished then s.refuse .state
    else
      let s := if s.capturesFor j then s.abandonCapture else s
      let s := (s.setJob j (some x.cancel)).postRecipients j fun i => x.recipients[i]? != x.cancel.recipients[i]?
      let s := if x.waitingCount = 0 then s else s.postJob j
      ((s.cancelLines j fun _ => true).finishIfSettled j).done x.waitingCount

def cancelJobEvent (tag : Tag) (job : Word) (s : State) : State := (s.takeCommand 20 tag (cancelJob job)).resumeBus

/-- R119, after the seize asked for the recipient (R123). The recipient's record is posted before the header; R119 gives no
order (DESIGN CHOICE, log 28). -/
def cancelRecipient (job index : Word) (s : State) : State × Option Answer :=
  (s.seizeFirst job.toNat fun i => i == index.toNat) |> withJob job fun j x s =>
    match x.recipients[index.toNat]? with
    | none => s.refuse .noSuch
    | some r =>
      let i := index.toNat
      if x.state = .assembling ∨ x.state = .finished then s.refuse .state
      else
        match r.state with
        | .waiting =>
          let s := (s.setJob j (some { x with cancelled := x.cancelled + 1 })).setRecipient j i { r with state := .cancelled }
          (((s.postRecipient j i).postJob j).finishIfSettled j).done 0
        | .onLine =>
          if r.cancelMark then s.refuse .state
          else
            (((s.setRecipient j i { r with cancelMark := true }).postRecipient j i).cancelLines j fun k => k == i).done 1
        | _ => s.refuse .state

def cancelRecipientEvent (tag : Tag) (job index : Word) (s : State) : State :=
  (s.takeCommand 21 tag (cancelRecipient job index)).resumeBus

/-- R121, R132: the job's record and those of its recipients are cleared; a free recipient record shows 0 (R194). The
header is posted first; R121 gives no order (DESIGN CHOICE, log 28). -/
def State.clearJob (s : State) (j : Nat) (x : Job) : State :=
  let s := (s.setJob j none).postJob j
  (List.range x.recipients.length).foldl (fun s i => s.postAll (recipientRecordPlace j i) (List.replicate 8 0)) s

/-- R121. -/
def deleteJob (job : Word) : State → State × Option Answer :=
  withJob job fun j x s => if x.state = .finished then (s.clearJob j x).done 0 else s.refuse .state

def deleteJobEvent (tag : Tag) (job : Word) (s : State) : State := s.takeCommand 22 tag (deleteJob job)

end Sys2Proof.Machine
end

