-- ==== Sys2Proof/Machine/ClockUnit.lean ====
section
/-! DEFINITION. Chapter 8, the clock unit: the second advance with its rollovers, uptime, the crystal
monitor, SET_CLOCK and the timetable. -/

namespace Sys2Proof.Machine

/-! ## The calendar (R156) -/

def leapYear (year : Nat) : Bool := decide (year % 4 = 0)

/-- R156. -/
def daysInMonth (year month : Nat) : Nat :=
  if month = 2 then (if leapYear year then 29 else 28)
  else if month = 4 ∨ month = 6 ∨ month = 9 ∨ month = 11 then 30
  else 31

/-- What a second advance brings (R156). -/
structure Advance where
  calendar : Calendar
  minute : Bool
  month : Bool
deriving DecidableEq, Repr

/-- R156, from the day on. -/
def Calendar.nextDay (c : Calendar) : Calendar × Bool :=
  let c := { c with hour := 0, minute := 0, second := 0, weekday := (c.weekday + 1) % 7 }
  if c.day < daysInMonth c.year c.month then ({ c with day := c.day + 1 }, false)
  else if c.month < 12 then ({ c with day := 1, month := c.month + 1 }, true)
  else ({ c with day := 1, month := 1, year := if c.year = 2099 then 2000 else c.year + 1 }, true)

/-- R155, R156. -/
def Calendar.advance (c : Calendar) : Advance :=
  if c.second < 59 then ⟨{ c with second := c.second + 1 }, false, false⟩
  else if c.minute < 59 then ⟨{ c with second := 0, minute := c.minute + 1 }, true, false⟩
  else if c.hour < 23 then ⟨{ c with second := 0, minute := 0, hour := c.hour + 1 }, true, false⟩
  else ⟨c.nextDay.1, true, c.nextDay.2⟩

/-! ## The timetable (R163 to R165) -/

structure TimetableEntry where
  enable : Bool
  days : BitVec 7
  hour : Nat
  minute : Nat
  action : Nat
  arg : Nat
  lineMode : Nat
deriving DecidableEq, Repr

/-- Entry `i`, from its two words (section 11.6). -/
def State.timetableEntry (s : State) (i : Nat) : TimetableEntry :=
  let w0 := s.tableWord (timetablePlace + 2 * i)
  let w1 := s.tableWord (timetablePlace + 2 * i + 1)
  { enable := w0.getLsbD 0, days := w0.extractLsb' 8 7, hour := unpack w0 16 8, minute := unpack w0 24 8,
    action := unpack w1 0 8, arg := unpack w1 8 8, lineMode := unpack w1 16 8 }

/-- R163, R164. -/
def TimetableEntry.matches (e : TimetableEntry) (c : Calendar) : Bool :=
  e.enable && decide (e.hour ≤ 24) && decide (e.minute ≤ 60) && decide (e.action ≤ 2) && e.days.getLsbD c.weekday &&
    (e.hour == c.hour || e.hour == 24) && (e.minute == c.minute || e.minute == 60)

/-- A line code (R195). -/
def lineOfCode (n : Nat) : Option Line :=
  match n with
  | 0 => some .A
  | 1 => some .B
  | _ => none

/-- R165: the action of an entry, and whether it was APPLIED. -/
def State.timetableAction (s : State) (e : TimetableEntry) : State × Bool :=
  match e.action with
  | 0 =>
    match s.job e.arg with
    | some x => if x.state = .held then (s.releaseHeld e.arg, true) else (s, false)
    | none => (s, false)
  | 1 =>
    match lineOfCode e.arg, lineModeOf e.lineMode with
    | some l, some m =>
      if s.fitted l ∧ (s.line l).settings.mode ≠ m then (s.changeSettings l fun x => { x with mode := m }, true) else (s, false)
    | _, _ => (s, false)
  | _ =>
    match printModeOf e.arg with
    | some m => if s.render.mode ≠ m then (s.setMode m, true) else (s, false)
    | none => (s, false)

/-- R165: one matching entry fires. R165 reports the job of a RELEASE_JOB, and does not say what the report names when the
entry's job number is above 16: here the number that the entry holds; and the line of a LINE_MODE, and not what it names when
its line code names neither line: here no line (DESIGN CHOICE, log 23). -/
def State.fireEntry (s : State) (p : TimetableEntry × Nat) : State :=
  let e := p.1
  let r := s.timetableAction e
  r.1.handReport
    { kind := .timetableFired, job := if e.action = 0 then e.arg else 0, line := if e.action = 1 then lineOfCode e.arg else none,
      value1 := some p.2, value2 := some (if r.2 then 0 else 1) }

/-- R164: the entries that match, with their indices, in index order. -/
def State.matching (s : State) : List (TimetableEntry × Nat) :=
  ((List.range 32).map fun i => (s.timetableEntry i, i)).filter fun p => p.1.matches s.clock.calendar

/-- R164: the matching entries fire in index order. -/
def State.timetable (s : State) : State := s.matching.foldl State.fireEntry s

/-! ## The month rollover (R147, R166) -/

/-- R166: the month close is taken first. A choice that a firing brings comes after it, as a row of its own (log 16). -/
def State.closeThenFire (s : State) : State := s.monthClose.timetable

/-- R166: the choice that the firings bring is taken first, in the event of the rollover, and finds the spending of the month
just ending. The event acts on every desk. -/
def State.fireThenClose (s : State) : State := (s.timetable.choose (List.range 32)).monthClose

/-- R166: with entries to fire either is taken first; a free value says which (log 29). -/
def State.monthTurn (s : State) : State :=
  if s.matching.isEmpty then s.monthClose
  else
    let n := s.clock.monthTurns
    let s : State := { s with clock := { s.clock with monthTurns := n + 1 } }
    if Config.choiceBeforeClose n then s.fireThenClose else s.closeThenFire

/-! ## The second advance (R155, R156) -/

/-- R155: the calendar takes its new value whole; a set clock evaluates the timetable at a minute rollover, and closes the
month at a month rollover, which is a minute rollover too. -/
def State.secondAdvance (s : State) : State :=
  let a := s.clock.calendar.advance
  let set := !s.clock.unset
  let s := ({ s with clock := { s.clock with calendar := a.calendar, subSecond := 0, counted := s.clock.now } } : State).postClock
  if set && a.month then s.monthTurn
  else if set && a.minute then s.timetable
  else s

/-- R164: the second advance that comes next evaluates the timetable, and asks for its entries first (R176). -/
def State.rollsOver (s : State) : Bool := !s.clock.unset && s.clock.calendar.advance.minute

/-! ## Uptime (R157) -/

/-- R157: the end of a second of the main clock. -/
def uptimeAdvanceEvent (s : State) : State :=
  let s := s.reach (some ((s.clock.uptime + 1) * Config.second))
  if s.clock.uptime < 2147483647 then ({ s with clock := { s.clock with uptime := s.clock.uptime + 1 } } : State).postClock
  else s

/-! ## The crystal monitor (R158) -/

/-- The instant of the crystal's last edge when its count stands at `n`: the edges since the count was last set come at the
crystal's rate (R155, log 26). -/
def Clock.lastEdge (c : Clock) (n : Nat) : Nat := c.counted + (n - c.subSecond) * Config.second / Config.crystalRate

/-- R158: the crystal has stopped with the sub-second count given (log 26), and 50 ms of the main clock have passed since
its last edge. -/
def crystalStopEvent (subSecond : BitVec 15) (s : State) : State :=
  if s.clock.stopped then s
  else
    let s := s.reach (some (s.clock.lastEdge subSecond.toNat + Config.crystalWatch))
    let s : State := { s with clock := { s.clock with stopped := true, unset := true, subSecond := subSecond.toNat } }
    (s.handReport { kind := .clockStopped }).postClock

/-- R158: the crystal runs again. A count that passes 32767 makes its second advance in this event. -/
def State.crystalRun (s : State) : State :=
  let s : State := { s with clock := { s.clock with stopped := false } }
  if s.clock.subSecond + 1 ≤ 32767 then
    ({ s with clock := { s.clock with subSecond := s.clock.subSecond + 1, counted := s.clock.now } } : State).postClock
  else s.secondAdvance

/-! ## SET_CLOCK (R160) -/

/-- Days from 2000-01-01 to a date (R160). -/
def daysSince2000 (year month day : Nat) : Nat :=
  ((List.range (year - 2000)).map fun y => if leapYear (2000 + y) then 366 else 365).sum +
    ((List.range (month - 1)).map fun m => daysInMonth year (m + 1)).sum + (day - 1)

/-- R160. -/
def weekdayOf (year month day : Nat) : Nat := (5 + daysSince2000 year month day) % 7

/-- R160, test 1. -/
def dateValid (year month day hour minute second : Nat) : Bool :=
  decide (2000 ≤ year) && decide (year ≤ 2099) && decide (1 ≤ month) && decide (month ≤ 12) && decide (1 ≤ day) &&
    decide (day ≤ daysInMonth year month) && decide (hour ≤ 23) && decide (minute ≤ 59) && decide (second ≤ 59)

/-- R160. -/
def setClock (year month day hour : Word) (minute second : Byte) (s : State) : State × Option Answer :=
  if !dateValid year.toNat month.toNat day.toNat hour.toNat minute.toNat second.toNat then s.refuse .badArgument
  else if s.clock.stopped then s.refuse .state
  else
    let weekday := weekdayOf year.toNat month.toNat day.toNat
    let c : Calendar :=
      { year := year.toNat, month := month.toNat, day := day.toNat, weekday := weekday, hour := hour.toNat,
        minute := minute.toNat, second := second.toNat }
    let s : State := { s with clock := { s.clock with
      calendar := c, subSecond := 0, counted := s.clock.now, unset := false,
      moved := s.clock.moved || s.clock.readOpen } }
    s.postClock.done weekday

def setClockEvent (tag : Tag) (year month day hour : Word) (minute second : Byte) (s : State) : State :=
  s.takeCommand 24 tag (setClock year month day hour minute second)

end Sys2Proof.Machine
end

