-- ==== Sys2Proof/Machine/Posting.lean ====
section
/-! DEFINITION. POSTING_WRITE (R176) and, with it, the taking of a command entry whose read has arrived
(R182): the kinds of section 10.2 with their arguments laid out as section 11.4 gives. -/

namespace Sys2Proof.Machine

/-- Argument word `i`, 1 to 5, of an entry. -/
def argument (ws : List Word) (i : Nat) : Word := ws.getD i 0

/-- The block's own part of the command that an entry holds; a kind that is none of the 28 is refused. -/
def commandAct (ws : List Word) : State → State × Option Answer :=
  let a := argument ws
  match ((argument ws 0).byte 0).toNat with
  | 1 => openCapture (a 1) (a 2) (a 3)
  | 2 => closeCapture
  | 3 => abortCapture
  | 4 => keepPage (a 1)
  | 5 => releasePage (a 1)
  | 6 => setReserve (a 1)
  | 7 => printPage (a 1)
  | 8 => endPrint
  | 9 => setPrintMode (a 1)
  | 10 => setRenderWidth (a 1)
  | 11 => setLineMode (a 1) (a 2)
  | 12 => setRings (a 1) (a 2)
  | 13 => setLineOptions (a 1) (a 2) (a 3) (a 4) (a 5)
  | 14 => hangUp (a 1)
  | 15 => setStationId (a 1) (a 2) (a 3) (a 4) (a 5)
  | 16 => createJob (a 1) (a 2) (a 3) (a 4) (a 5)
  | 17 => addRecipient (a 1) (a 2) (a 3) (a 4) (a 5)
  | 18 => submitJob (a 1)
  | 19 => releaseJob (a 1)
  | 20 => cancelJob (a 1)
  | 21 => cancelRecipient (a 1) (a 2)
  | 22 => deleteJob (a 1)
  | 23 => lockTariff
  | 24 => setClock (a 1) (a 2) (a 3) (a 4) ((a 5).byte 0) ((a 5).byte 1)
  | 25 => setRegions (a 1) (a 2) (a 3) (a 4) (a 5)
  | 26 => setAttn (a 1) (a 2)
  | 27 => enableGuard (a 1)
  | 28 => clearGuardFlag
  | _ => unknownKind

/-- R182: the command unit takes the entry whose words have arrived. -/
def State.takeArrived (s : State) : State :=
  match s.command.fetched with
  | none => s
  | some ws =>
    let w := argument ws 0
    s.takeCommand (w.byte 0).toNat (w.extractLsb' 16 16) (commandAct ws)

/-- The same as an event of its own, which waits for room in the list (R176). -/
def State.takeFetched (s : State) : State := s.awaited [] State.takeArrived

/-- R176: the access of the item that the poster has handed to the DRAM port, which a grant has put there (R179),
and the entry that its data bring. An entry that has arrived before is taken first (log 8). -/
def State.postingWrite (s : State) : State :=
  if s.command.fetched.isSome then s.takeArrived else if s.path.headHanded then s.handHead.takeArrived else s

def postingWriteEvent (s : State) : State := s.postingWrite.resumeBus

end Sys2Proof.Machine
end

