-- ==== Sys2Proof/Machine/ReadRows.lean ====
section
/-! DEFINITION. How a row takes its event (R176): one that finds no room in the list waits for it (log 9). And the rows whose
events read the tariff area or the timetable (R137, R164, R176): the choice, the seize, the rows in which room may return to
the call log, the answer, a unit due, and the second advance. Such an event asks for its reads, is taken when the last has
been made, with the words that they have brought, and posts then. What comes while an event waits, an entry that arrives
or room in the call log, has its own event after it (logs 9, 10). -/

namespace Sys2Proof.Machine

/-! ## The choice and the seize (R123, R126) -/

/-- R123, R182: the choice, when there is one to make; an entry that has arrived meanwhile is taken after it (log 10). -/
def State.choiceRow (s : State) : State := if s.choiceLine.isSome then s.makeChoice.takeFetched else s

def execDispatchChoice (s : State) : Host.Outcome State Fault Refusal := s.choiceRow.settleBus

def execSeize (line : Line) (s : State) : Host.Outcome State Fault Refusal :=
  (if s.willSeize line then (s.seizeEvent line).takeFetched else s.seizeEvent line).settleBus

/-! ## A row's event (R176) -/

/-- The event of a row is taken when the list has room for what it adds. Room that a word of the bus has brought back to the
call log while it waited brings a choice after it, and an entry that has arrived is taken (log 9). -/
def State.event (s : State) (act : State → State) : State :=
  let v := s.awaitRoom [] act
  let t := act v
  if s.findsRoom act then t else (if s.roomReturned v then t.makeChoice else t).takeFetched

/-! ## Room in the call log (R125, R150) -/

/-- R125: room that a word of the bus has brought back brings a choice in the same event, with all that ends its row. -/
def State.roomChoice (s before : State) : State :=
  if before.roomReturned s then s.choiceRow.awaited [] State.resumeBus else s

/-- The event of a row that may write the call log consumer index, with the choice that it brings. -/
def State.busRow (s : State) (act : State → State) : State :=
  let t := (s.awaited [] act).roomChoice s
  if s.findsRoom act then t else t.takeFetched

/-- A host write that may reach the call log consumer index. -/
def hostWriteEvent (addr : BitVec 24) (be : BitVec 4) (data : Word) (s : State) : State :=
  s.busAccess (.write (addr.toNat / 4) be data)

def callLogConsumerWriteEvent (be : BitVec 4) (data : Word) (s : State) : State :=
  s.hostControlWrite logConsumerPlace be data

def execHostWrite (addr : BitVec 24) (be : BitVec 4) (data : Word) (s : State) : Host.Outcome State Fault Refusal :=
  (s.busRow (hostWriteEvent addr be data)).settle

def execCallLogConsumerWrite (be : BitVec 4) (data : Word) (s : State) : Host.Outcome State Fault Refusal :=
  (s.busRow (callLogConsumerWriteEvent be data)).settle

/-- R179: a grant of the bus may make a write of that index. -/
def execArbiterGrant (requester : Requester) (s : State) : Host.Outcome State Fault Refusal :=
  (if s.picks requester then s.busRow fun s => s.takePort requester else s).settleBus

/-- The end of a row whose event has had its reads: its words are done with, room returned by a word of the bus meanwhile
brings a choice, and an entry that has arrived is taken (log 10). -/
def State.afterEvent (s before : State) : State :=
  let t := s.endReads
  (if before.roomReturned t then t.makeChoice else t).takeFetched

/-! ## The answer and the unit due (R139, R140, R142) -/

/-- The switch points of the day type in force (R136). -/
def bandReads (weekday : Nat) : List (Nat × Nat) := (List.range 8).map fun i => (bandPlace + 8 * dayType weekday + i, 1)

/-- The rate entry of a zone and a band. -/
def rateReads (zone band : Nat) : List (Nat × Nat) := [(ratePlace + 2 * (4 * zone + band), 2)]

/-- R137: an answer or a unit due reads the band table while the clock is set, and for a call that is not metered the
rate entry of its zone and that band. It acts on the desk of the call. -/
def State.rateNow (s : State) (l : Line) : State :=
  match s.call l with
  | none => s
  | some c =>
    let s := if s.clock.unset then s else s.readNow [c.desk] .charge (bandReads s.clock.calendar.weekday)
    if c.metered then s else s.readNow [c.desk] .charge (rateReads c.zone s.bandNow)

/-- The desk of the call of a line. -/
def State.callDesks (s : State) (l : Line) : List Nat := (s.call l).toList.map (·.desk)

/-- R74. -/
def execAnswerDetected (line : Line) (s : State) : Host.Outcome State Fault Refusal :=
  (if (s.line line).state = .progress then
     ((s.rateNow line).awaited (s.callDesks line) fun s => s.answer line).afterEvent s
   else s).settleBus

/-- R140; a due falls only while the call is CONNECTED, and only a record that has one. The reads are asked for at
its instant. -/
def execUnitDue (line : Line) (s : State) : Host.Outcome State Fault Refusal :=
  (let due := (s.call line).bind (·.nextDue)
   if (s.line line).state = .connected ∧ due.isSome then
     (((s.reach due).rateNow line).awaited (s.callDesks line) fun s => s.unitCharge line).afterEvent s
   else s).settleBus

/-! ## The second advance (R155, R158, R164) -/

/-- The entries of the timetable. -/
def timetableReads : List (Nat × Nat) := (List.range 32).map fun i => (timetablePlace + 2 * i, 2)

/-- The desks on which a second advance acts: all of them at a month rollover, and none otherwise (R147). -/
def State.advanceDesks (s : State) : List Nat := if s.clock.calendar.advance.month then List.range 32 else []

/-- An event that brings a second advance, with the reads of its minute rollover. -/
def State.advancing (s : State) (event : State → State) : State :=
  if s.rollsOver then ((s.readNow s.advanceDesks .clock timetableReads).awaited s.advanceDesks event).afterEvent s
  else s.event event

def execSecondAdvance (s : State) : Host.Outcome State Fault Refusal :=
  (if s.clock.stopped then s else s.advancing State.secondAdvance).settleBus

/-- R158: the crystal runs again; a count that passes 32767 brings the second advance. -/
def execCrystalRun (s : State) : Host.Outcome State Fault Refusal :=
  (if s.clock.stopped then
     (if s.clock.subSecond + 1 ≤ 32767 then s.event State.crystalRun else s.advancing State.crystalRun)
   else s).settleBus

end Sys2Proof.Machine
end

