-- ==== Sys2Proof/Machine/Rows.lean ====
section
/-! DEFINITION. The rows whose events read no table: each takes its event when the list has room for what the event adds
(R176, log 9). What the event of a row is stands in its block's own file. -/

namespace Sys2Proof.Machine

/-! ## Chapter 1: the page store -/

def execKeepPage (tag : Tag) (page : Word) (s : State) : Host.Outcome State Fault Refusal :=
  (s.event (keepPageEvent tag page)).settle

def execReleasePage (tag : Tag) (page : Word) (s : State) : Host.Outcome State Fault Refusal :=
  (s.event (releasePageEvent tag page)).settle

def execSetReserve (tag : Tag) (n : Word) (s : State) : Host.Outcome State Fault Refusal :=
  (s.event (setReserveEvent tag n)).settle

/-! ## Chapter 2: the capture coder -/

def execOpenCapture (tag : Tag) (purpose job width : Word) (s : State) : Host.Outcome State Fault Refusal :=
  (s.event (openCaptureEvent tag purpose job width)).settle

def execCloseCapture (tag : Tag) (s : State) : Host.Outcome State Fault Refusal := (s.event (closeCaptureEvent tag)).settle

def execAbortCapture (tag : Tag) (s : State) : Host.Outcome State Fault Refusal := (s.event (abortCaptureEvent tag)).settle

def execLineTake (s : State) : Host.Outcome State Fault Refusal := (s.event lineTakeEvent).settle

def execCaptureAllocation (s : State) : Host.Outcome State Fault Refusal := (s.event captureAllocationEvent).settle

def execCloseCaptureComplete (s : State) : Host.Outcome State Fault Refusal := (s.event closeCaptureCompleteEvent).settle

def execCaptureHoldExpiry (s : State) : Host.Outcome State Fault Refusal := (s.event captureHoldExpiryEvent).settle

/-! ## Chapter 3: rendering and the print queue -/

def execPrintPage (tag : Tag) (page : Word) (s : State) : Host.Outcome State Fault Refusal :=
  (s.event (printPageEvent tag page)).settle

def execEndPrint (tag : Tag) (s : State) : Host.Outcome State Fault Refusal := (s.event (endPrintEvent tag)).settle

def execSetPrintMode (tag : Tag) (mode : Word) (s : State) : Host.Outcome State Fault Refusal :=
  (s.event (setPrintModeEvent tag mode)).settle

def execSetRenderWidth (tag : Tag) (width : Word) (s : State) : Host.Outcome State Fault Refusal :=
  (s.event (setRenderWidthEvent tag width)).settle

def execRenderLineDecoded (s : State) : Host.Outcome State Fault Refusal := (s.event renderLineDecodedEvent).settle

def execRenderSlotFilled (s : State) : Host.Outcome State Fault Refusal := (s.event renderSlotFilledEvent).settle

def execRenderHoldExpiry (s : State) : Host.Outcome State Fault Refusal := (s.event renderHoldExpiryEvent).settle

/-! ## Chapter 4: the telephone lines -/

def execRingBurst (burst : RingPresence) (s : State) : Host.Outcome State Fault Refusal :=
  (s.event (ringBurstEvent burst)).settle

def execRingGapTimeout (line : Line) (s : State) : Host.Outcome State Fault Refusal :=
  (s.event (ringGapTimeoutEvent line)).settle

def execAnswerToneEnd (line : Line) (s : State) : Host.Outcome State Fault Refusal :=
  (s.event (answerToneEndEvent line)).settle

def execRecoveryEnd (line : Line) (s : State) : Host.Outcome State Fault Refusal := (s.event (recoveryEndEvent line)).settle

def execDialToneRecognised (line : Line) (s : State) : Host.Outcome State Fault Refusal :=
  (s.event (dialToneRecognisedEvent line)).settle

def execBlindDialDelayEnd (line : Line) (s : State) : Host.Outcome State Fault Refusal :=
  (s.event (blindDialDelayEndEvent line)).settle

def execDtmfStrobeEnd (line : Line) (s : State) : Host.Outcome State Fault Refusal :=
  (s.event (dtmfStrobeEndEvent line)).settle

def execDialBreakEnd (line : Line) (s : State) : Host.Outcome State Fault Refusal :=
  (s.event (dialBreakEndEvent line)).settle

def execSymbolEnd (line : Line) (s : State) : Host.Outcome State Fault Refusal := (s.event (symbolEndEvent line)).settle

def execInterDigitMakeEnd (line : Line) (s : State) : Host.Outcome State Fault Refusal :=
  (s.event (interDigitMakeEndEvent line)).settle

def execCtoneBurstStart (line : Line) (s : State) : Host.Outcome State Fault Refusal :=
  (s.event (ctoneBurstStartEvent line)).settle

def execCtoneBurstEnd (line : Line) (s : State) : Host.Outcome State Fault Refusal :=
  (s.event (ctoneBurstEndEvent line)).settle

def execMeterPulse (line : Line) (presenceMs : Nat) (s : State) : Host.Outcome State Fault Refusal :=
  (s.event (meterPulseEvent line presenceMs)).settle

def execSetLineMode (tag : Tag) (line mode : Word) (s : State) : Host.Outcome State Fault Refusal :=
  (s.event (setLineModeEvent tag line mode)).settle

def execSetRings (tag : Tag) (line count : Word) (s : State) : Host.Outcome State Fault Refusal :=
  (s.event (setRingsEvent tag line count)).settle

def execSetLineOptions (tag : Tag) (line method blind metered maxStep : Word) (s : State) :
    Host.Outcome State Fault Refusal :=
  (s.event (setLineOptionsEvent tag line method blind metered maxStep)).settle

def execHangUp (tag : Tag) (line : Word) (s : State) : Host.Outcome State Fault Refusal :=
  (s.event (hangUpEvent tag line)).settle

/-! ## Chapters 4, 5 and 10: the rows that end a call -/

def execClearSent (line : Line) (s : State) : Host.Outcome State Fault Refusal := (s.event (clearSentEvent line)).settle

def execClearReceived (line : Line) (cause : Nat) (s : State) : Host.Outcome State Fault Refusal :=
  (s.event (clearReceivedEvent line cause)).settle

def execDialToneTimeout (line : Line) (s : State) : Host.Outcome State Fault Refusal :=
  (s.event (dialToneTimeoutEvent line)).settle

def execToneCycleEnd (line : Line) (onMs offMs : Nat) (s : State) : Host.Outcome State Fault Refusal :=
  (s.event (toneCycleEndEvent line onMs offMs)).settle

def execFaultTone (line : Line) (s : State) : Host.Outcome State Fault Refusal := (s.event (faultToneEvent line)).settle

def execProgressTimeout (line : Line) (s : State) : Host.Outcome State Fault Refusal :=
  (s.event (progressTimeoutEvent line)).settle

def execCarrierLost (line : Line) (s : State) : Host.Outcome State Fault Refusal := (s.event (carrierLostEvent line)).settle

def execGuardExpiry (s : State) : Host.Outcome State Fault Refusal := (s.event guardExpiryEvent).settle

/-! ## Chapter 5: the session procedure -/

def execIdentReceived (line : Line) (id : List Byte) (maxStep : Nat) (ready : Bool) (s : State) :
    Host.Outcome State Fault Refusal :=
  (s.event (identReceivedEvent line id maxStep ready)).settle

def execReadyReceived (line : Line) (s : State) : Host.Outcome State Fault Refusal :=
  (s.event (readyReceivedEvent line)).settle

def execRetryReceived (line : Line) (s : State) : Host.Outcome State Fault Refusal :=
  (s.event (retryReceivedEvent line)).settle

def execBlockOkReceived (line : Line) (block : Nat) (s : State) : Host.Outcome State Fault Refusal :=
  (s.event (blockOkReceivedEvent line block)).settle

def execGapsReceived (line : Line) (block : Nat) (frames : List Nat) (s : State) : Host.Outcome State Fault Refusal :=
  (s.event (gapsReceivedEvent line block frames)).settle

def execStoreFullReceived (line : Line) (s : State) : Host.Outcome State Fault Refusal :=
  (s.event (storeFullReceivedEvent line)).settle

def execPageOkReceived (line : Line) (s : State) : Host.Outcome State Fault Refusal :=
  (s.event (pageOkReceivedEvent line)).settle

def execFrameSent (line : Line) (s : State) : Host.Outcome State Fault Refusal := (s.event (frameSentEvent line)).settle

def execTrainingBurstSent (line : Line) (s : State) : Host.Outcome State Fault Refusal :=
  (s.event (trainingBurstSentEvent line)).settle

def execResponseTimeout (line : Line) (s : State) : Host.Outcome State Fault Refusal :=
  (s.event (responseTimeoutEvent line)).settle

def execIdentTimeout (line : Line) (s : State) : Host.Outcome State Fault Refusal :=
  (s.event (identTimeoutEvent line)).settle

def execIdentRepeat (line : Line) (s : State) : Host.Outcome State Fault Refusal := (s.event (identRepeatEvent line)).settle

def execIdleTimeout (line : Line) (s : State) : Host.Outcome State Fault Refusal := (s.event (idleTimeoutEvent line)).settle

def execSetupReceived (line : Line) (id : List Byte) (step : Nat) (s : State) : Host.Outcome State Fault Refusal :=
  (s.event (setupReceivedEvent line id step)).settle

def execTrainingBurstReceived (line : Line) (bits ones : Nat) (s : State) : Host.Outcome State Fault Refusal :=
  (s.event (trainingBurstReceivedEvent line bits ones)).settle

def execPageHeadReceived (line : Line) (number width lines bytes : Nat) (s : State) : Host.Outcome State Fault Refusal :=
  (s.event (pageHeadReceivedEvent line number width lines bytes)).settle

def execDataReceived (line : Line) (block frame : Nat) (payload : List Byte) (s : State) :
    Host.Outcome State Fault Refusal :=
  (s.event (dataReceivedEvent line block frame payload)).settle

def execBlockEndReceived (line : Line) (block count : Nat) (s : State) : Host.Outcome State Fault Refusal :=
  (s.event (blockEndReceivedEvent line block count)).settle

def execReceiveAllocation (line : Line) (s : State) : Host.Outcome State Fault Refusal :=
  (s.event (receiveAllocationEvent line)).settle

def execBlockDataDrained (line : Line) (s : State) : Host.Outcome State Fault Refusal :=
  (s.event (blockDataDrainedEvent line)).settle

def execPageEndReceived (line : Line) (more : Bool) (s : State) : Host.Outcome State Fault Refusal :=
  (s.event (pageEndReceivedEvent line more)).settle

def execPageDataDrained (line : Line) (s : State) : Host.Outcome State Fault Refusal :=
  (s.event (pageDataDrainedEvent line)).settle

def execFrameRejected (line : Line) (bytes : List Byte) (s : State) : Host.Outcome State Fault Refusal :=
  (s.event (frameRejectedEvent line bytes)).settle

def execSetStationId (tag : Tag) (w1 w2 w3 w4 w5 : Word) (s : State) : Host.Outcome State Fault Refusal :=
  (s.event (setStationIdEvent tag w1 w2 w3 w4 w5)).settle

/-! ## Chapter 6: send jobs -/

def execLineCancel (line : Line) (s : State) : Host.Outcome State Fault Refusal := (s.event (lineCancelEvent line)).settle

def execCreateJob (tag : Tag) (desk priority release maxAttempts interval : Word) (s : State) :
    Host.Outcome State Fault Refusal :=
  (s.event (createJobEvent tag desk priority release maxAttempts interval)).settle

def execAddRecipient (tag : Tag) (job n1 n2 n3 n4 : Word) (s : State) : Host.Outcome State Fault Refusal :=
  (s.event (addRecipientEvent tag job n1 n2 n3 n4)).settle

def execSubmitJob (tag : Tag) (job : Word) (s : State) : Host.Outcome State Fault Refusal :=
  (s.event (submitJobEvent tag job)).settle

def execReleaseJob (tag : Tag) (job : Word) (s : State) : Host.Outcome State Fault Refusal :=
  (s.event (releaseJobEvent tag job)).settle

def execCancelJob (tag : Tag) (job : Word) (s : State) : Host.Outcome State Fault Refusal :=
  (s.event (cancelJobEvent tag job)).settle

def execCancelRecipient (tag : Tag) (job index : Word) (s : State) : Host.Outcome State Fault Refusal :=
  (s.event (cancelRecipientEvent tag job index)).settle

def execDeleteJob (tag : Tag) (job : Word) (s : State) : Host.Outcome State Fault Refusal :=
  (s.event (deleteJobEvent tag job)).settle

/-! ## Chapter 7: call charging -/

def execLockTariff (tag : Tag) (s : State) : Host.Outcome State Fault Refusal := (s.event (lockTariffEvent tag)).settle

/-! ## Chapter 8: the clock -/

def execUptimeAdvance (s : State) : Host.Outcome State Fault Refusal := (s.event uptimeAdvanceEvent).settle

def execCrystalStop (subSecond : BitVec 15) (s : State) : Host.Outcome State Fault Refusal :=
  (s.event (crystalStopEvent subSecond)).settle

def execSetClock (tag : Tag) (year month day hour : Word) (minute second : Byte) (s : State) :
    Host.Outcome State Fault Refusal :=
  (s.event (setClockEvent tag year month day hour minute second)).settle

/-! ## Chapter 9: the memory path -/

def execSetRegions (tag : Tag) (storeBase storeLength captureBase renderBase holdLimit : Word) (s : State) :
    Host.Outcome State Fault Refusal :=
  (s.event (setRegionsEvent tag storeBase storeLength captureBase renderBase holdLimit)).settle

def execCaptureWindowWrite (word : BitVec 10) (be : BitVec 4) (data : Word) (s : State) :
    Host.Outcome State Fault Refusal :=
  (s.event (captureWindowWriteEvent word be data)).settle

def execRenderSlotRead (word : BitVec 10) (be : BitVec 4) (s : State) : Host.Outcome State Fault Refusal :=
  (s.event (renderSlotReadEvent word be)).settle

def execCommandProducerWrite (be : BitVec 4) (data : Word) (s : State) : Host.Outcome State Fault Refusal :=
  (s.event (commandProducerWriteEvent be data)).settle

def execReportConsumerWrite (be : BitVec 4) (data : Word) (s : State) : Host.Outcome State Fault Refusal :=
  (s.event (reportConsumerWriteEvent be data)).settle

def execGuardKick (be : BitVec 4) (data : Word) (s : State) : Host.Outcome State Fault Refusal :=
  (s.event (guardKickEvent be data)).settle

def execDeskFieldWrite (desk : Fin 32) (spent : Bool) (be : BitVec 4) (data : Word) (s : State) :
    Host.Outcome State Fault Refusal :=
  (s.event (deskFieldWriteEvent desk spent be data)).settle

def execClockWord0Read (s : State) : Host.Outcome State Fault Refusal := (s.event clockWord0ReadEvent).settle

def execClockWord3Read (s : State) : Host.Outcome State Fault Refusal := (s.event clockWord3ReadEvent).settle

/-! ## Chapter 10: the command ring, reports and the line guard -/

def execCommandReadDiscarded (s : State) : Host.Outcome State Fault Refusal := (s.event commandReadDiscardedEvent).settle

def execUnknownCommandKind (kind : Byte) (tag : Tag) (s : State) : Host.Outcome State Fault Refusal :=
  (s.event (unknownCommandKindEvent kind tag)).settle

def execSetAttn (tag : Tag) (mode mask : Word) (s : State) : Host.Outcome State Fault Refusal :=
  (s.event (setAttnEvent tag mode mask)).settle

def execAttnPulseEnd (s : State) : Host.Outcome State Fault Refusal := (s.event attnPulseEndEvent).settle

def execEnableGuard (tag : Tag) (period : Word) (s : State) : Host.Outcome State Fault Refusal :=
  (s.event (enableGuardEvent tag period)).settle

def execClearGuardFlag (tag : Tag) (s : State) : Host.Outcome State Fault Refusal :=
  (s.event (clearGuardFlagEvent tag)).settle

/-! ## Chapter 9: the poster -/

def execPostingWrite (s : State) : Host.Outcome State Fault Refusal := (s.event postingWriteEvent).settle

end Sys2Proof.Machine
end

