-- ==== Sys2Proof/Machine/Reset.lean ====
section
/-! DEFINITION. The two resets. POWER_ON_RESET is R188 with every block's power-on values; HOST_RESET is
R22, R36, R59, R82, R110, R133, R153, R167, R175, R184, R188 and R192, in the order of log 28. -/

namespace Sys2Proof.Machine

/-! ## Power-on -/

/-- The power-on postings write the byte: it lies in the control area, outside the 16 command entries (R170, R184). -/
def Straps.writesAtPowerOn (x : Straps) (addr : Nat) : Bool :=
  decide (4 * x.controlBase ≤ addr) && decide (addr < 4 * x.controlBase + 65536) &&
    !(decide (4 * (x.controlBase + entryPlace 0) ≤ addr) && decide (addr < 4 * (x.controlBase + entryPlace 16)))

/-- DRAM after a power-on: the words that the reset writes, and every other byte as it was, the command entries among
them (R184, log 2). -/
def State.powerOnMemory (s : State) (straps : Straps) : List Host.Cell :=
  Memory.writeBytes (s.mem.filter fun c => !straps.writesAtPowerOn c.1) (State.powerOn straps).mem

/-- R188: every block at its power-on values, the straps latched. What the outside still has in hand
for the part waits on (log 1). -/
def execPowerOnReset (dramPins : BitVec 2) (twoLines guardForced : Bool) (s : State) : Host.Outcome State Fault Refusal :=
  let straps := Straps.latch dramPins twoLines guardForced
  .next { State.powerOn straps with mem := s.powerOnMemory straps, pending := s.pending }

/-! ## Host reset, block by block -/

/-- R175: the held word is dropped, a read with 0 on the data lines, and the words behind it are not made. A word that
waits at the port, and the words behind it, are made after the reset. -/
def State.dropHeld (s : State) : State :=
  let s := s.releaseZero
  { s with path := { s.path with held := none, stalled := if s.path.atPort.isSome then s.path.stalled else [] } }

/-- R175: the requests of the four engines are dropped. -/
def State.dropRequests (s : State) : State :=
  { s with path := { s.path with requests := { s.path.requests with
      coder := .none, decoder := .none, sessionA := .none, sessionB := .none } } }

/-- A FILLING record. -/
def State.filling (s : State) (n : Nat) : Bool := (s.page n).any fun p => !p.complete

/-- R22: every FILLING page is aborted, in ascending order of record number. -/
def State.abortFilling (s : State) : State :=
  ((List.range 255).map (· + 1)).foldl (fun s n => if s.filling n then s.abortPage n else s) s

/-- R110: the page in hand has been aborted, and nothing more of it is asked or written. -/
def State.forgetPage (s : State) (l : Line) : State := s.setSession l { s.session l with page := 0 }

/-- R36, R59: the capture coder and the render decoder give up their work, a line being written with it. What their contexts
hold in IDLE beside what the rules give is log 43 and log 37. -/
def State.resetEngines (s : State) : State :=
  ({ s with coder := Coder.powerOn, render := { s.render.toIdle with writes := [] } } : State).postRender

/-- R82, R110, R133, R153: off-hook calls end with RESET. -/
def State.resetCalls (s : State) : State :=
  ((((s.forgetPage .A).forgetPage .B).endCall .A .reset).endCall .B .reset)

/-- R86: the session words at the end of the reset. -/
def State.postSessions (s : State) : State := (s.postSession .A).postSession .B

/-- R133: the seize asked for is dropped and the log-full flag cleared. -/
def State.resetDispatch (s : State) : State :=
  ({ s with dispatch := { s.dispatch with logFull := false, asked := none, cancelSent := ⟨false, false⟩ } } : State).postDispatch

/-- R151, R153: the tariff lock and its flag. -/
def State.resetLock (s : State) : State :=
  ({ s with charge := { s.charge with locked := false, absorbedReported := false } } : State).postTariff

/-- R167: the straddle is closed and clear. -/
def State.resetStraddle (s : State) : State := { s with clock := { s.clock with readOpen := false, moved := false } }

/-- R184. -/
def State.resetCommand (s : State) : State :=
  (({ s with command := CommandUnit.powerOn } : State).post commandProducerPlace 0).postCommand

/-- R188: the report ring; mode and mask stay. -/
def State.resetReports (s : State) : State :=
  (({ s with report := { s.report with producer := 0, consumer := 0, sequence := 1, overflow := false, pulse := none } } :
        State).post reportProducerPlace 0).post reportConsumerPlace 0

/-- R192. -/
def State.resetGuard (s : State) : State :=
  (({ s with guard := { s.guard with expected := 1 } } : State).restartGuard).postGuard

/-- R188: no report of another block is posted in the reset. -/
def State.silenced (s : State) : State := { s with report := { s.report with mask := 0 } }

/-- Everything that the blocks do before RESTARTED. -/
def State.resetBlocks (s : State) : State :=
  let s := s.dropHeld.dropRequests.dropEntryRead.abortFilling.resetEngines
  let s := s.resetCalls.resetDispatch.resetLock.resetStraddle.resetCommand.postSessions
  s.resetReports.resetGuard.startRendering

/-- R188: RESTARTED, whatever the mask. Its posting of a word that still waits in the list (the report producer index, posted
as 0 in the reset itself, or status word 15 of a report before it) takes that posting's place, ahead of the entry (R176; DESIGN
CHOICE, log 32). -/
def State.hostReset (s : State) : State :=
  let mask := s.report.mask
  let s := s.silenced.resetBlocks
  let s : State := { s with report := { s.report with mask := mask } }
  s.writeReport (restartedReport .hostReset s.path.straps)

def execHostReset (s : State) : Host.Outcome State Fault Refusal := (s.event State.hostReset).settle

end Sys2Proof.Machine
end

