-- ==== Sys2Proof/Machine/Dispatch.lean ====
section
/-! DEFINITION. One arm per row of the table: each command's effect on everything but the queue. -/

namespace Sys2Proof.Machine

def exec (i : Instr) (s : State) : Host.Outcome State Fault Refusal :=
  match i with
  | .powerOnReset dramPins twoLines guardForced => Sys2Proof.Machine.execPowerOnReset dramPins twoLines guardForced s
  | .hostReset => Sys2Proof.Machine.execHostReset s
  | .commandProducerWrite be data => Sys2Proof.Machine.execCommandProducerWrite be data s
  | .commandReadDiscarded => Sys2Proof.Machine.execCommandReadDiscarded s
  | .unknownCommandKind kind tag => Sys2Proof.Machine.execUnknownCommandKind kind tag s
  | .openCapture tag purpose job width => Sys2Proof.Machine.execOpenCapture tag purpose job width s
  | .closeCapture tag => Sys2Proof.Machine.execCloseCapture tag s
  | .closeCaptureComplete => Sys2Proof.Machine.execCloseCaptureComplete s
  | .abortCapture tag => Sys2Proof.Machine.execAbortCapture tag s
  | .keepPage tag page => Sys2Proof.Machine.execKeepPage tag page s
  | .releasePage tag page => Sys2Proof.Machine.execReleasePage tag page s
  | .setReserve tag n => Sys2Proof.Machine.execSetReserve tag n s
  | .printPage tag page => Sys2Proof.Machine.execPrintPage tag page s
  | .endPrint tag => Sys2Proof.Machine.execEndPrint tag s
  | .setPrintMode tag mode => Sys2Proof.Machine.execSetPrintMode tag mode s
  | .setRenderWidth tag width => Sys2Proof.Machine.execSetRenderWidth tag width s
  | .setLineMode tag line mode => Sys2Proof.Machine.execSetLineMode tag line mode s
  | .setRings tag line count => Sys2Proof.Machine.execSetRings tag line count s
  | .setLineOptions tag line method blind metered maxStep => Sys2Proof.Machine.execSetLineOptions tag line method blind metered maxStep s
  | .hangUp tag line => Sys2Proof.Machine.execHangUp tag line s
  | .setStationId tag w1 w2 w3 w4 w5 => Sys2Proof.Machine.execSetStationId tag w1 w2 w3 w4 w5 s
  | .createJob tag desk priority release maxAttempts interval => Sys2Proof.Machine.execCreateJob tag desk priority release maxAttempts interval s
  | .addRecipient tag job n1 n2 n3 n4 => Sys2Proof.Machine.execAddRecipient tag job n1 n2 n3 n4 s
  | .submitJob tag job => Sys2Proof.Machine.execSubmitJob tag job s
  | .releaseJob tag job => Sys2Proof.Machine.execReleaseJob tag job s
  | .cancelJob tag job => Sys2Proof.Machine.execCancelJob tag job s
  | .cancelRecipient tag job index => Sys2Proof.Machine.execCancelRecipient tag job index s
  | .deleteJob tag job => Sys2Proof.Machine.execDeleteJob tag job s
  | .lockTariff tag => Sys2Proof.Machine.execLockTariff tag s
  | .setClock tag year month day hour minute second => Sys2Proof.Machine.execSetClock tag year month day hour minute second s
  | .setRegions tag storeBase storeLength captureBase renderBase holdLimit => Sys2Proof.Machine.execSetRegions tag storeBase storeLength captureBase renderBase holdLimit s
  | .setAttn tag mode mask => Sys2Proof.Machine.execSetAttn tag mode mask s
  | .enableGuard tag period => Sys2Proof.Machine.execEnableGuard tag period s
  | .clearGuardFlag tag => Sys2Proof.Machine.execClearGuardFlag tag s
  | .hostWrite addr be data => Sys2Proof.Machine.execHostWrite addr be data s
  | .captureWindowWrite word be data => Sys2Proof.Machine.execCaptureWindowWrite word be data s
  | .captureHoldExpiry => Sys2Proof.Machine.execCaptureHoldExpiry s
  | .lineTake => Sys2Proof.Machine.execLineTake s
  | .captureAllocation => Sys2Proof.Machine.execCaptureAllocation s
  | .receiveAllocation line => Sys2Proof.Machine.execReceiveAllocation line s
  | .renderLineDecoded => Sys2Proof.Machine.execRenderLineDecoded s
  | .renderSlotFilled => Sys2Proof.Machine.execRenderSlotFilled s
  | .renderSlotRead word be => Sys2Proof.Machine.execRenderSlotRead word be s
  | .renderHoldExpiry => Sys2Proof.Machine.execRenderHoldExpiry s
  | .ringBurst burst => Sys2Proof.Machine.execRingBurst burst s
  | .ringGapTimeout line => Sys2Proof.Machine.execRingGapTimeout line s
  | .answerToneEnd line => Sys2Proof.Machine.execAnswerToneEnd line s
  | .seize line => Sys2Proof.Machine.execSeize line s
  | .dialToneRecognised line => Sys2Proof.Machine.execDialToneRecognised line s
  | .dialToneTimeout line => Sys2Proof.Machine.execDialToneTimeout line s
  | .blindDialDelayEnd line => Sys2Proof.Machine.execBlindDialDelayEnd line s
  | .dtmfStrobeEnd line => Sys2Proof.Machine.execDtmfStrobeEnd line s
  | .dialBreakEnd line => Sys2Proof.Machine.execDialBreakEnd line s
  | .symbolEnd line => Sys2Proof.Machine.execSymbolEnd line s
  | .interDigitMakeEnd line => Sys2Proof.Machine.execInterDigitMakeEnd line s
  | .ctoneBurstStart line => Sys2Proof.Machine.execCtoneBurstStart line s
  | .ctoneBurstEnd line => Sys2Proof.Machine.execCtoneBurstEnd line s
  | .toneCycleEnd line onMs offMs => Sys2Proof.Machine.execToneCycleEnd line onMs offMs s
  | .faultTone line => Sys2Proof.Machine.execFaultTone line s
  | .progressTimeout line => Sys2Proof.Machine.execProgressTimeout line s
  | .answerDetected line => Sys2Proof.Machine.execAnswerDetected line s
  | .meterPulse line presenceMs => Sys2Proof.Machine.execMeterPulse line presenceMs s
  | .carrierLost line => Sys2Proof.Machine.execCarrierLost line s
  | .recoveryEnd line => Sys2Proof.Machine.execRecoveryEnd line s
  | .lineCancel line => Sys2Proof.Machine.execLineCancel line s
  | .dispatchChoice => Sys2Proof.Machine.execDispatchChoice s
  | .identReceived line id maxStep ready => Sys2Proof.Machine.execIdentReceived line id maxStep ready s
  | .setupReceived line id step => Sys2Proof.Machine.execSetupReceived line id step s
  | .readyReceived line => Sys2Proof.Machine.execReadyReceived line s
  | .retryReceived line => Sys2Proof.Machine.execRetryReceived line s
  | .trainingBurstSent line => Sys2Proof.Machine.execTrainingBurstSent line s
  | .trainingBurstReceived line bits ones => Sys2Proof.Machine.execTrainingBurstReceived line bits ones s
  | .pageHeadReceived line number width lines bytes => Sys2Proof.Machine.execPageHeadReceived line number width lines bytes s
  | .dataReceived line block frame payload => Sys2Proof.Machine.execDataReceived line block frame payload s
  | .blockEndReceived line block count => Sys2Proof.Machine.execBlockEndReceived line block count s
  | .blockDataDrained line => Sys2Proof.Machine.execBlockDataDrained line s
  | .blockOkReceived line block => Sys2Proof.Machine.execBlockOkReceived line block s
  | .gapsReceived line block frames => Sys2Proof.Machine.execGapsReceived line block frames s
  | .storeFullReceived line => Sys2Proof.Machine.execStoreFullReceived line s
  | .pageEndReceived line more => Sys2Proof.Machine.execPageEndReceived line more s
  | .pageDataDrained line => Sys2Proof.Machine.execPageDataDrained line s
  | .pageOkReceived line => Sys2Proof.Machine.execPageOkReceived line s
  | .clearReceived line cause => Sys2Proof.Machine.execClearReceived line cause s
  | .frameRejected line bytes => Sys2Proof.Machine.execFrameRejected line bytes s
  | .frameSent line => Sys2Proof.Machine.execFrameSent line s
  | .clearSent line => Sys2Proof.Machine.execClearSent line s
  | .responseTimeout line => Sys2Proof.Machine.execResponseTimeout line s
  | .identTimeout line => Sys2Proof.Machine.execIdentTimeout line s
  | .identRepeat line => Sys2Proof.Machine.execIdentRepeat line s
  | .idleTimeout line => Sys2Proof.Machine.execIdleTimeout line s
  | .unitDue line => Sys2Proof.Machine.execUnitDue line s
  | .deskFieldWrite desk spent be data => Sys2Proof.Machine.execDeskFieldWrite desk spent be data s
  | .callLogConsumerWrite be data => Sys2Proof.Machine.execCallLogConsumerWrite be data s
  | .secondAdvance => Sys2Proof.Machine.execSecondAdvance s
  | .uptimeAdvance => Sys2Proof.Machine.execUptimeAdvance s
  | .crystalStop subSecond => Sys2Proof.Machine.execCrystalStop subSecond s
  | .crystalRun => Sys2Proof.Machine.execCrystalRun s
  | .clockWord0Read => Sys2Proof.Machine.execClockWord0Read s
  | .clockWord3Read => Sys2Proof.Machine.execClockWord3Read s
  | .postingWrite => Sys2Proof.Machine.execPostingWrite s
  | .arbiterGrant requester => Sys2Proof.Machine.execArbiterGrant requester s
  | .reportConsumerWrite be data => Sys2Proof.Machine.execReportConsumerWrite be data s
  | .attnPulseEnd => Sys2Proof.Machine.execAttnPulseEnd s
  | .guardKick be data => Sys2Proof.Machine.execGuardKick be data s
  | .guardExpiry => Sys2Proof.Machine.execGuardExpiry s

end Sys2Proof.Machine
end

