-- ==== Sys2Proof/Machine/Step.lean ====
section
/-! DEFINITION. One step of the part: the command at the front of the queue, or a tick of the main clock
when nothing waits (log 4). -/

namespace Sys2Proof.Machine

/-- On an empty queue the part idles: one unit of the main clock passes (log 4). -/
def State.tick (s : State) : State := { s with clock := { s.clock with now := s.clock.now + 1 } }

def step (s : State) : Host.Outcome State Fault Refusal :=
  match s.pending with
  | [] => .next s.tick
  | c :: rest => exec c { s with pending := rest }

/-- The command that a word spells, in front of the queue. The table gives no row any bits. -/
def State.withFetchWord (s : State) (nbits w : Nat) : State :=
  match Sys2Proof.decodeTableWord nbits w with
  | some c => { s with pending := c :: s.pending }
  | none => s

end Sys2Proof.Machine
end

