-- ==== Sys2Proof/Safety.lean ====
section
/-! DEFINITION. What the statements speak of: the frame of a row (what it leaves as it was), the words of
the control area as the part has settled them, the end of a command, and the invariants that the rules
promise (R5, R43, R176) and the model's own data keep (the memory's canonical form). -/

namespace Sys2Proof.Machine

/-! ## Frames

A row that posts also moves the poster's list (R176). `Alike` says that two states agree in everything but the
traffic of the DRAM port: DRAM, the list, what stands at its head and what waits for room in it, the requests of the port
and the access of the bus under way, the moved state of an open clock read (R162), the read of an entry under way (R182),
and what the reads of a choice and of an event have brought (R125, R176). What happens to DRAM is then said by
`settledWord`, the value a word has once all that is posted has been handed. -/

structure State.Alike (s t : State) : Prop where
  regions : t.path.regions = s.path.regions
  holdLimit : t.path.holdLimit = s.path.holdLimit
  straps : t.path.straps = s.path.straps
  held : t.path.held = s.path.held
  atPort : t.path.atPort = s.path.atPort
  stalled : t.path.stalled = s.path.stalled
  readData : t.path.readData = s.path.readData
  store : t.store = s.store
  coder : t.coder = s.coder
  render : t.render = s.render
  lines : t.lines = s.lines
  sessions : t.sessions = s.sessions
  stationId : t.stationId = s.stationId
  dispatch : t.dispatch = s.dispatch
  charge : t.charge = s.charge
  clock : t.clock = { s.clock with moved := t.clock.moved }
  moved : s.clock.readOpen = false → t.clock.moved = s.clock.moved
  producer : t.command.producer = s.command.producer
  consumer : t.command.consumer = s.command.consumer
  inProgress : t.command.inProgress = s.command.inProgress
  report : t.report = s.report
  guard : t.guard = s.guard
  pending : t.pending = s.pending

/-- Consecutive places. -/
def span (place n : Nat) : List Nat := (List.range n).map (place + ·)

/-- Every word of DRAM but those at the given places of the control area is as it was. -/
def State.postsOnly (s t : State) (places : List Nat) : Prop :=
  ∀ w, (∀ p ∈ places, w ≠ s.path.straps.controlBase + p) → t.settledWord w = s.settledWord w

/-- `u` is the state the rule gives but for its postings, and `t` is `u` with postings at the given places
only. -/
def State.moves (u t : State) (places : List Nat) : Prop := u.Alike t ∧ u.postsOnly t places

/-- The words from a place of the control area on, once the list has been handed. -/
def State.showsAt (t : State) (place : Nat) (ws : List Word) : Prop :=
  ∀ i (h : i < ws.length), t.settledAt (place + i) = ws[i]

/-- Nothing is posted and nothing handed: the list, and what waits for room in it, are as they were. -/
def State.samePostings (s t : State) : Prop := t.path.postings = s.path.postings ∧ t.path.waiting = s.path.waiting

/-- Nothing of the row reaches DRAM or the posting list, and no register of a block changes: the bus request
and the data lines apart, the state is as it was. -/
def State.untouched (s t : State) : Prop := s.Alike t ∧ t.mem = s.mem ∧ s.samePostings t

/-- The enabled bytes of a word reach DRAM, and nothing else happens. -/
def State.passesOnly (s t : State) (w : Nat) (be : BitVec 4) (data : Word) : Prop :=
  s.Alike t ∧ t.mem = Memory.writeMasked s.mem w be data ∧ s.samePostings t

/-! ## The DRAM port (R178, R179) -/

/-- A word that the bus makes at the instant is granted at once: no other word of the bus waits at the port, no item of
the poster stands there, and no engine has waited 2 µs. -/
def State.portFreeAt (s : State) (now : Nat) : Prop :=
  s.path.atPort = none ∧ s.path.headHanded = false ∧ ∀ p ∈ s.path.requests.engines, now < p.2 + 20

def State.portFree (s : State) : Prop := s.portFreeAt s.clock.now

/-- A word that the bus makes at the instant waits: an item of the poster stands at the port, or an engine has waited
2 µs. -/
def State.portBusyAt (s : State) (now : Nat) : Prop :=
  s.path.headHanded = true ∨ ∃ p ∈ s.path.requests.engines, p.2 + 20 ≤ now

def State.portBusy (s : State) : Prop := s.portBusyAt s.clock.now

/-- The bus word waits at the port with a request made now, and nothing else happens. -/
def State.waitsAtPort (s t : State) (op : BusOp) : Prop :=
  ({ s with path := { s.path with atPort := some op } } : State).untouched t ∧ t.path.requests.bus = some s.clock.now

/-- A word that passes unobserved: it reaches DRAM in its event, or waits for the port. -/
def State.passesInTurn (s t : State) (w : Nat) (be : BitVec 4) (data : Word) : Prop :=
  (s.portFree → s.passesOnly t w be data) ∧ (s.portBusy → s.waitsAtPort t (.write w be data))

/-! ## Rows whose events read the tariff or the timetable (R137, R164, R176) -/

/-- The bus has no word at the port and none behind it. -/
def State.busQuiet (s : State) : Prop := s.path.atPort = none ∧ s.path.stalled = []

/-- The state but for what accesses of the poster and of the engines at the DRAM port move, which is as in `v`: the list,
the requests, what the engines have still to write and what they have read, what the reads of an entry and of the event have
brought, the moved state of a clock read, and DRAM. -/
def State.withAccesses (s v : State) : State :=
  { s with
    mem := v.mem
    path := { s.path with
      postings := v.path.postings, waiting := v.path.waiting, headHanded := v.path.headHanded, requests := v.path.requests
      heard := v.path.heard, run := v.path.run }
    coder := { s.coder with writes := v.coder.writes, got := v.coder.got }
    render := { s.render with writes := v.render.writes, got := v.render.got }
    sessions :=
      ⟨{ s.sessions.a with writes := v.sessions.a.writes, reads := v.sessions.a.reads },
       { s.sessions.b with writes := v.sessions.b.writes, reads := v.sessions.b.reads }⟩
    command := { s.command with fetched := v.command.fetched }
    clock := { s.clock with moved := v.clock.moved } }

/-- Accesses of the poster and of the engines, and nothing else, lead from `s` to `v`. -/
def State.accessesMade (s v : State) : Prop := v = s.withAccesses v

/-- R137: the state once the band table, while the clock is set, and then the rate entry of its zone and that band, for a
call that is not metered, have been read. -/
def State.rateReadsMade (s : State) (c : CallRecord) : State :=
  let b := if s.clock.unset then s else s.readNow [c.desk] .charge (bandReads s.clock.calendar.weekday)
  if c.metered then b else b.readNow [c.desk] .charge (rateReads c.zone b.bandNow)

/-! ## Rows that wait for room in the list (R176) -/

/-- The event that the row takes at once when the list has room for what it adds: of a row whose event asks for reads, the
event that it takes when it has none to ask. POWER_ON_RESET finds the list empty; DISPATCH_CHOICE, SEIZE and UNIT_DUE add
nothing where they ask for no read. -/
def rowEvent : Instr → State → State
  | .powerOnReset _ _ _ => fun s => s
  | .hostReset => State.hostReset
  | .commandProducerWrite be data => commandProducerWriteEvent be data
  | .commandReadDiscarded => commandReadDiscardedEvent
  | .unknownCommandKind kind tag => unknownCommandKindEvent kind tag
  | .openCapture tag purpose job width => openCaptureEvent tag purpose job width
  | .closeCapture tag => closeCaptureEvent tag
  | .closeCaptureComplete => closeCaptureCompleteEvent
  | .abortCapture tag => abortCaptureEvent tag
  | .keepPage tag page => keepPageEvent tag page
  | .releasePage tag page => releasePageEvent tag page
  | .setReserve tag n => setReserveEvent tag n
  | .printPage tag page => printPageEvent tag page
  | .endPrint tag => endPrintEvent tag
  | .setPrintMode tag mode => setPrintModeEvent tag mode
  | .setRenderWidth tag width => setRenderWidthEvent tag width
  | .setLineMode tag line mode => setLineModeEvent tag line mode
  | .setRings tag line count => setRingsEvent tag line count
  | .setLineOptions tag line method blind metered maxStep => setLineOptionsEvent tag line method blind metered maxStep
  | .hangUp tag line => hangUpEvent tag line
  | .setStationId tag w1 w2 w3 w4 w5 => setStationIdEvent tag w1 w2 w3 w4 w5
  | .createJob tag desk priority release maxAttempts interval => createJobEvent tag desk priority release maxAttempts interval
  | .addRecipient tag job n1 n2 n3 n4 => addRecipientEvent tag job n1 n2 n3 n4
  | .submitJob tag job => submitJobEvent tag job
  | .releaseJob tag job => releaseJobEvent tag job
  | .cancelJob tag job => cancelJobEvent tag job
  | .cancelRecipient tag job index => cancelRecipientEvent tag job index
  | .deleteJob tag job => deleteJobEvent tag job
  | .lockTariff tag => lockTariffEvent tag
  | .setClock tag year month day hour minute second => setClockEvent tag year month day hour minute second
  | .setRegions tag storeBase storeLength captureBase renderBase holdLimit => setRegionsEvent tag storeBase storeLength captureBase renderBase holdLimit
  | .setAttn tag mode mask => setAttnEvent tag mode mask
  | .enableGuard tag period => enableGuardEvent tag period
  | .clearGuardFlag tag => clearGuardFlagEvent tag
  | .hostWrite addr be data => hostWriteEvent addr be data
  | .captureWindowWrite word be data => captureWindowWriteEvent word be data
  | .captureHoldExpiry => captureHoldExpiryEvent
  | .lineTake => lineTakeEvent
  | .captureAllocation => captureAllocationEvent
  | .receiveAllocation line => receiveAllocationEvent line
  | .renderLineDecoded => renderLineDecodedEvent
  | .renderSlotFilled => renderSlotFilledEvent
  | .renderSlotRead word be => renderSlotReadEvent word be
  | .renderHoldExpiry => renderHoldExpiryEvent
  | .ringBurst burst => ringBurstEvent burst
  | .ringGapTimeout line => ringGapTimeoutEvent line
  | .answerToneEnd line => answerToneEndEvent line
  | .seize _ => fun s => s
  | .dialToneRecognised line => dialToneRecognisedEvent line
  | .dialToneTimeout line => dialToneTimeoutEvent line
  | .blindDialDelayEnd line => blindDialDelayEndEvent line
  | .dtmfStrobeEnd line => dtmfStrobeEndEvent line
  | .dialBreakEnd line => dialBreakEndEvent line
  | .symbolEnd line => symbolEndEvent line
  | .interDigitMakeEnd line => interDigitMakeEndEvent line
  | .ctoneBurstStart line => ctoneBurstStartEvent line
  | .ctoneBurstEnd line => ctoneBurstEndEvent line
  | .toneCycleEnd line onMs offMs => toneCycleEndEvent line onMs offMs
  | .faultTone line => faultToneEvent line
  | .progressTimeout line => progressTimeoutEvent line
  | .answerDetected line => fun s => s.answer line
  | .meterPulse line presenceMs => meterPulseEvent line presenceMs
  | .carrierLost line => carrierLostEvent line
  | .recoveryEnd line => recoveryEndEvent line
  | .lineCancel line => lineCancelEvent line
  | .dispatchChoice => fun s => s
  | .identReceived line id maxStep ready => identReceivedEvent line id maxStep ready
  | .setupReceived line id step => setupReceivedEvent line id step
  | .readyReceived line => readyReceivedEvent line
  | .retryReceived line => retryReceivedEvent line
  | .trainingBurstSent line => trainingBurstSentEvent line
  | .trainingBurstReceived line bits ones => trainingBurstReceivedEvent line bits ones
  | .pageHeadReceived line number width lines bytes => pageHeadReceivedEvent line number width lines bytes
  | .dataReceived line block frame payload => dataReceivedEvent line block frame payload
  | .blockEndReceived line block count => blockEndReceivedEvent line block count
  | .blockDataDrained line => blockDataDrainedEvent line
  | .blockOkReceived line block => blockOkReceivedEvent line block
  | .gapsReceived line block frames => gapsReceivedEvent line block frames
  | .storeFullReceived line => storeFullReceivedEvent line
  | .pageEndReceived line more => pageEndReceivedEvent line more
  | .pageDataDrained line => pageDataDrainedEvent line
  | .pageOkReceived line => pageOkReceivedEvent line
  | .clearReceived line cause => clearReceivedEvent line cause
  | .frameRejected line bytes => frameRejectedEvent line bytes
  | .frameSent line => frameSentEvent line
  | .clearSent line => clearSentEvent line
  | .responseTimeout line => responseTimeoutEvent line
  | .identTimeout line => identTimeoutEvent line
  | .identRepeat line => identRepeatEvent line
  | .idleTimeout line => idleTimeoutEvent line
  | .unitDue _ => fun s => s
  | .deskFieldWrite desk spent be data => deskFieldWriteEvent desk spent be data
  | .callLogConsumerWrite be data => callLogConsumerWriteEvent be data
  | .secondAdvance => State.secondAdvance
  | .uptimeAdvance => uptimeAdvanceEvent
  | .crystalStop subSecond => crystalStopEvent subSecond
  | .crystalRun => State.crystalRun
  | .clockWord0Read => clockWord0ReadEvent
  | .clockWord3Read => clockWord3ReadEvent
  | .postingWrite => postingWriteEvent
  | .arbiterGrant requester => fun s => s.grantPort requester
  | .reportConsumerWrite be data => reportConsumerWriteEvent be data
  | .attnPulseEnd => attnPulseEndEvent
  | .guardKick be data => guardKickEvent be data
  | .guardExpiry => guardExpiryEvent

/-- R176: the event of the row finds room in the list for all that it adds: it need not wait (log 9). -/
def State.fits (c : Instr) (s : State) : Prop := s.findsRoom (rowEvent c) = true

/-- The rows whose events may ask for reads of the tariff area or of the timetable, and are taken when these have been
made (R176, log 10). -/
def asksReads : Instr → Bool
  | .dispatchChoice | .seize _ | .answerDetected _ | .unitDue _ | .secondAdvance | .crystalRun => true
  | _ => false

/-- An item stands behind the list only while it holds 128. Every step keeps it (`Obligations.BoundsStay`). -/
def State.listInOrder (s : State) : Prop :=
  s.path.postings.length ≤ 128 ∧ (s.path.waiting ≠ [] → s.path.postings.length = 128)

/-- The words of DRAM that hold a byte which an engine has still to write. -/
def State.engineWrites (s : State) (w : Nat) : Prop :=
  ∃ b ∈ s.coder.writes ++ s.render.writes ++ s.sessions.a.writes ++ s.sessions.b.writes, b.1 / 4 = w

/-- No read of an entry is under way: the reads of the row's event are all that is taken in it. -/
def State.quietReads (s : State) : Prop :=
  s.command.fetched = none ∧ ∀ item ∈ s.path.items, ∃ w v, item = .write w v

/-- The rows in which a command entry may be taken though their event finds room: POSTING_WRITE, and the rows whose reads may
let an entry arrive, those in which room returning to the call log brings a choice among them. In a row whose event waits for
room, an entry may arrive too (log 9). -/
def mayTakeEntry : Instr → Bool
  | .postingWrite | .hostWrite .. | .callLogConsumerWrite .. | .arbiterGrant _ => true
  | .dispatchChoice | .seize _ | .answerDetected _ | .unitDue _ | .secondAdvance | .crystalRun => true
  | _ => false

/-! ## Commands (R182, R183) -/

/-- The command unit can take an entry: none is in progress and none is withdrawn. The memory has its
canonical form, an invariant (`Obligations.MemoryStaysCanonical`). -/
def State.takes (s : State) : Prop :=
  s.command.inProgress = none ∧ s.command.withdrawn = false ∧ Memory.wf s.mem = true

/-- The producer index once the entry has been given (log 7). -/
def CommandUnit.given (c : CommandUnit) : CommandUnit :=
  { c with producer := if c.pendingCount = 0 then c.consumer + 1 else c.producer }

/-- The command unit after the entry at its consumer index has been taken and ended. -/
def State.commandDone (s : State) : State :=
  { s with command := { s.command.given with consumer := s.command.consumer + 1, inProgress := none } }

/-- The slot of the entry taken. -/
def State.entryHere (s : State) : Nat := entryPlace (s.command.consumer.toNat % 16)

/-- The places that the end of a command posts: result, status, and the command unit's status word. -/
def State.commandPlaces (s : State) : List Nat := [s.entryHere + 6, s.entryHere + 7, statusPlace + 14]

/-- The entry taken in `s` has ended in `t` with an answer: result word, and status word with its tag. -/
def State.answered (s t : State) (tag : Tag) (a : Answer) : Prop :=
  t.settledAt (s.entryHere + 6) = a.result ∧
    t.settledAt (s.entryHere + 7) = pack [⟨a.code, 0, 8⟩, ⟨tag.toNat, 16, 16⟩] ∧
    t.settledAt (statusPlace + 14) = statusCommand t.command

/-- A refused command changes nothing in its owner (R183): only its end is posted. -/
def State.refusedWith (s t : State) (tag : Tag) (code : CommandRefusal) : Prop :=
  s.commandDone.moves t s.commandPlaces ∧ s.answered t tag (.refused code)

/-- The rows of the 28 commands, and of an entry of another kind (R182). -/
def isEntry : Instr → Bool
  | .unknownCommandKind kind _ => kind.toNat == 0 || decide (28 < kind.toNat)
  | .openCapture .. | .closeCapture _ | .abortCapture _ | .keepPage .. | .releasePage .. | .setReserve .. => true
  | .printPage .. | .endPrint _ | .setPrintMode .. | .setRenderWidth .. => true
  | .setLineMode .. | .setRings .. | .setLineOptions .. | .hangUp .. | .setStationId .. => true
  | .createJob .. | .addRecipient .. | .submitJob .. | .releaseJob .. | .cancelJob .. | .cancelRecipient .. | .deleteJob .. => true
  | .lockTariff _ | .setClock .. | .setRegions .. | .setAttn .. | .enableGuard .. | .clearGuardFlag _ => true
  | _ => false

/-- Section 11.4: the row of the command that an entry's words hold: the kind in byte 0, the tag in the upper half of
word 0, the arguments in words 1 to 5. -/
def rowOfEntry (w0 w1 w2 w3 w4 w5 : Word) : Instr :=
  let tag : Tag := w0.extractLsb' 16 16
  match (w0.byte 0).toNat with
  | 1 => .openCapture tag w1 w2 w3
  | 2 => .closeCapture tag
  | 3 => .abortCapture tag
  | 4 => .keepPage tag w1
  | 5 => .releasePage tag w1
  | 6 => .setReserve tag w1
  | 7 => .printPage tag w1
  | 8 => .endPrint tag
  | 9 => .setPrintMode tag w1
  | 10 => .setRenderWidth tag w1
  | 11 => .setLineMode tag w1 w2
  | 12 => .setRings tag w1 w2
  | 13 => .setLineOptions tag w1 w2 w3 w4 w5
  | 14 => .hangUp tag w1
  | 15 => .setStationId tag w1 w2 w3 w4 w5
  | 16 => .createJob tag w1 w2 w3 w4 w5
  | 17 => .addRecipient tag w1 w2 w3 w4 w5
  | 18 => .submitJob tag w1
  | 19 => .releaseJob tag w1
  | 20 => .cancelJob tag w1
  | 21 => .cancelRecipient tag w1 w2
  | 22 => .deleteJob tag w1
  | 23 => .lockTariff tag
  | 24 => .setClock tag w1 w2 w3 w4 (w5.byte 0) (w5.byte 1)
  | 25 => .setRegions tag w1 w2 w3 w4 w5
  | 26 => .setAttn tag w1 w2
  | 27 => .enableGuard tag w1
  | 28 => .clearGuardFlag tag
  | _ => .unknownCommandKind (w0.byte 0) tag

/-! ## Reports (R185) -/

/-- The report unit after a report has been handed to it. -/
def State.reported (s : State) (r : Report) : State :=
  if s.report.mask.getLsbD r.kind.cls then
    if s.report.unconsumed < Config.reportSlots then
      { s with report := { s.report with
          sequence := nextSequence s.report.sequence
          producer := s.report.producer + 1
          pulse := if s.report.mode = .pulse then s.after Config.attnPulse else s.report.pulse } }
    else { s with report := { s.report with sequence := nextSequence s.report.sequence, overflow := true } }
  else s

/-- The places that a report posts. -/
def State.reportPlaces (s : State) (r : Report) : List Nat :=
  if s.report.mask.getLsbD r.kind.cls then
    if s.report.unconsumed < Config.reportSlots then
      span (reportPlace (s.report.producer.toNat % Config.reportSlots)) 8 ++ [reportProducerPlace, statusPlace + 15]
    else [statusPlace + 15]
  else []

/-- The words of a report stand in the ring's next entry, when its class is enabled and the ring has room. -/
def State.reportStands (s t : State) (r : Report) : Prop :=
  s.report.mask.getLsbD r.kind.cls = true → s.report.unconsumed < 64 →
    t.showsAt (reportPlace (s.report.producer.toNat % 64))
      (reportWords s.report.sequence s.clock.uptime s.clock.calendar r)

/-- The words of the last report stand in the ring's next entry, with the producer index after it, when its class is enabled
and the ring has room. -/
def State.reportShown (s t : State) (r : Report) : Prop :=
  s.reportStands t r ∧
    (s.report.mask.getLsbD r.kind.cls = true → s.report.unconsumed < 64 →
      t.settledAt reportProducerPlace = (s.report.producer + 1).setWidth 32)

/-- A report that may be due. -/
def State.reportedIf (s : State) : Option Report → State
  | some r => s.reported r
  | none => s

/-! ## Frames of a session -/

/-- The fields of a frame that its bytes can carry (R196). -/
def Frame.carried : Frame → Prop
  | .ident id maxStep _ => id.length ≤ 20 ∧ (∀ b ∈ id, b ≠ 0) ∧ maxStep < 256
  | .setup id step => id.length ≤ 20 ∧ (∀ b ∈ id, b ≠ 0) ∧ step < 256
  | .ready => True
  | .retry => True
  | .pageHead number width lines bytes => number < 256 ∧ width < 65536 ∧ lines < 65536 ∧ bytes < 4294967296
  | .data block frame payload => block < 256 ∧ frame < 256 ∧ payload.length < 65536
  | .blockEnd block count => block < 256 ∧ count < 256
  | .blockOk block => block < 256
  | .gaps block frames => block < 256 ∧ frames.length < 256 ∧ ∀ n ∈ frames, n < 256
  | .pageEnd _ => True
  | .pageOk => True
  | .storeFull => True
  | .clear cause => cause < 256

/-! ## Regions -/

/-- Tests 1 to 4 of R172, in bytes below the control area: alignment, length, place, and no shared byte. -/
def regionTests (top sb len cb rb : Nat) : Prop :=
  4096 ∣ sb ∧ 4096 ∣ cb ∧ 4096 ∣ rb ∧ 2048 ∣ len ∧ 65536 ≤ len ∧ len ≤ 8388608 ∧
    sb + len ≤ top ∧ cb + 4096 ≤ top ∧ rb + 4096 ≤ top ∧
    (sb + len ≤ cb ∨ cb + 4096 ≤ sb) ∧ (sb + len ≤ rb ∨ rb + 4096 ≤ sb) ∧ (cb + 4096 ≤ rb ∨ rb + 4096 ≤ cb)

/-- The regions set pass the tests of R172 under the straps. -/
def State.regionsSound (s : State) : Prop :=
  ∀ r, s.path.regions = some r →
    regionTests (s.path.straps.dramMiB * 1048576 - 65536) r.storeBase r.storeLength r.captureBase r.renderBase

/-! ## Capture -/

/-- The capture context and slot `i` as a take or an expiry leaves it. -/
def Coder.slotIs (c : Coder) (i : Nat) (x : CaptureSlot) : Prop := c.slots[i % 8]'(Nat.mod_lt _ (by decide)) = x

/-- The other seven slots are as they were. -/
def Coder.otherSlots (c d : Coder) (i : Nat) : Prop :=
  ∀ j : Fin 8, j.val ≠ i % 8 → d.slots[j] = c.slots[j]

/-- R31, R33: slot `i` is FREE, its next line 8 higher when it was PENDING. -/
def Coder.slotFreed (c d : Coder) (i : Nat) : Prop :=
  (∀ k, c.slotIs i (.pending k) → d.slotIs i (.free (k + 8))) ∧ (∀ k, c.slotIs i (.free k) → d.slotIs i (.free k))

/-- Every slot is. -/
def Coder.slotsFreed (c d : Coder) : Prop := ∀ i, i < 8 → c.slotFreed d i

/-- R7, R27: the capture context and the page after a code of the coder's: its whole bytes are on their way to the page's
chain, or the code waits whole where the chain has no room for it (log 20). -/
def State.codedTo (s : State) (c : Coder) (p : Page) (k : AskedCode) : Coder × Page :=
  if c.codeBits + k.bits.length ≤ 16384 * p.chain.length then
    let r := splitBytes (c.tail ++ k.bits)
    let d : Coder := { c with
      asked := none, tail := r.2, codeBits := c.codeBits + k.bits.length,
      writes := c.writes ++ r.1.zipIdx.map fun b => (s.codeAddr p (p.codeBytes + b.2), b.1) }
    let q : Page := { p with codeBytes := p.codeBytes + r.1.length }
    match k.line with
    | some line => ({ d with reference := line, nextLine := c.nextLine + 1 }, { q with lineCount := p.lineCount + 1 })
    | none => ({ d with endCoded := true }, q)
  else ({ c with asked := some k }, p)

/-- R33: the closing coder has nothing left but END: no code waits, and the next line is neither lost nor PENDING. -/
def Coder.endsNow (c : Coder) : Prop :=
  c.state = .opened ∧ c.closing = true ∧ c.asked = none ∧ c.nextLine ∉ c.lost ∧ ¬ c.slotIs c.nextLine (.pending c.nextLine)

/-- R33, R39: the capture context and the page after END has had its turn: the slots PENDING beyond the gap are freed,
and for a page with a line END is coded, with zero bits to the end of its byte, in that event (log 20). -/
def State.endTurned (s : State) (c : Coder) (p : Page) (r : Coder × Page) : Prop :=
  let freed : Coder := { c with slots := r.1.slots }
  let turn := c.endCoded = false ∧ c.endsNow
  (turn → c.slotsFreed r.1 ∧
    r = if p.lineCount = 0 then (freed, p)
      else s.codedTo freed p ⟨[true, true, true] ++ List.replicate (7 - (c.tail.length + 2) % 8) false, none⟩) ∧
  (¬ turn → r = (c, p))

/-! ## Rendering (R49) -/

/-- The render context as a page starts: nothing decoded, slot `i` awaiting line `i` or no line. -/
def Render.started (r : Render) (n : Nat) (p : Page) : Render :=
  { queue := r.queue, mode := r.mode, width := r.width, rendering := true, page := n, pageWidth := some p.width,
    lineCount := p.lineCount, nextLine := 0, codePos := 0, reference := List.replicate p.width false,
    slots := Vector.ofFn fun i => if i.val < p.lineCount then .empty i.val false else .emptyDone,
    linesEnded := 0, underrunLines := 0, underrunReported := false, stopped := false, produced := false, writing := none,
    writes := r.writes, got := 0 }

/-- The render context with no page (the table of section 3.3); a line being written is completed into DRAM (R56, R57). -/
def Render.idled (r : Render) : Render :=
  { queue := r.queue, mode := r.mode, width := r.width, rendering := false, page := 0, pageWidth := none, lineCount := 0,
    nextLine := 0, codePos := 0, reference := [], slots := Vector.replicate 8 .noLine, linesEnded := 0, underrunLines := 0,
    underrunReported := false, stopped := false, produced := false, writing := none, writes := r.writes, got := 0 }

/-- What the table holds for a page whose fields are `q` after a hold was cleared: no record when no hold is
left (R15). -/
def Page.kept (q : Page) : Option Page :=
  if q.sendHold || q.printHold || q.keepHold then some q else none

/-- The free chain after that: the page's chain has joined its tail when no hold is left (R4, R15). -/
def State.freedInto (s : State) (q : Page) : List Nat :=
  if q.sendHold || q.printHold || q.keepHold then s.store.free else s.store.free ++ q.chain

/-- Render slot `i` is in a state. -/
def Render.slotIs (r : Render) (i : Nat) (x : RenderSlot) : Prop := r.slots[i % 8]'(Nat.mod_lt _ (by decide)) = x

/-- No word of the bus is left waiting behind nothing: with no word held and none at the port, none is stalled. Every step
keeps it (`Obligations.PathInOrder`). -/
def State.busInOrder (s : State) : Prop := s.path.held = none → s.path.atPort = none → s.path.stalled = []

/-- A held word meets its hold condition (R174). -/
def State.heldMeets (s : State) : Prop := ∀ h, s.path.held = some h → s.mustHold h.op = true

/-- What keeps it so: a word held leaves none at the port; the capture slots are FREE while the coder is IDLE, and the render
slots have no line while the decoder is. -/
def State.holdsInOrder (s : State) : Prop :=
  s.heldMeets ∧ (s.path.held ≠ none → s.path.atPort = none) ∧
    (s.coder.state = .idle → ∀ i k, ¬ s.coder.slotIs i (.pending k)) ∧
    (s.render.rendering = false → ∀ i, s.render.slotIs i .noLine)

/-- R49, R52: a render slot holds and awaits only lines of its own index modulo 8. Every step keeps it
(`Obligations.PathInOrder`). -/
def Render.linesInPlace (r : Render) : Prop :=
  ∀ i k, (r.slotIs i (.full k) ∨ ∃ lost, r.slotIs i (.empty k lost)) → k % 8 = i % 8

/-- R50: what the decoder of context `r` does with the line that it has produced, by the state of the line's slot, and the
context `t` that it leaves: it waits on a FULL slot, and on one that still awaits an earlier line; it writes the line into the
slot that awaits it; it discards it otherwise. -/
def State.placesLine (s : State) (r t : Render) : Prop :=
  let k := r.nextLine
  (∀ j, r.slotIs k (.full j) → t = { r with produced := true }) ∧
  (∀ j lost, r.slotIs k (.empty j lost) → j < k → t = { r with produced := true }) ∧
  (r.slotIs k (.empty k false) → t = { r with
    produced := false, writing := some k,
    writes := r.writes ++ bytesAt (s.renderSlotAddr k) (splitBytes (placeLine r.width r.reference)).1 }) ∧
  (r.slotIs k (.empty k true) ∨ (∃ j lost, r.slotIs k (.empty j lost) ∧ k < j) ∨ r.slotIs k .emptyDone →
    t = { r with produced := false, nextLine := k + 1 })

/-- R52, R50: the context `t` once the line of slot `i` has ended in context `r`: the slot is EMPTY as `next`, and the
decoder that waits with a line acts on the slot's new state. -/
def State.slotEnded (s : State) (r : Render) (i : Nat) (next : RenderSlot) (t : Render) : Prop :=
  let u : Render := { r with slots := r.slots.setIfInBounds (i % 8) next, linesEnded := r.linesEnded + 1 }
  (r.produced = false → t = u) ∧ (r.produced = true → s.placesLine u t)

/-- The other seven slots are as they were. -/
def Render.otherSlots (r q : Render) (i : Nat) : Prop := ∀ j : Fin 8, j.val ≠ i % 8 → q.slots[j] = r.slots[j]

/-! ## Lines -/

/-- A line argument names the line, and the line is fitted (R62). -/
def State.names (s : State) (arg : Word) (l : Line) : Prop := arg = BitVec.ofNat 32 (lineCode l) ∧ s.fitted l = true

/-- A line command is refused by its line argument: BAD_ARGUMENT for neither line, NO_SUCH for line B not
fitted (R62). -/
def State.lineTests (s t : State) (tag : Tag) (arg : Word) : Prop :=
  (1 < arg.toNat → s.refusedWith t tag .badArgument) ∧ (arg = 1 → s.fitted .B = false → s.refusedWith t tag .noSuch)

/-- The place of a line's state word. -/
def linePlace (l : Line) : Nat := statusPlace + 5 + lineCode l

/-- Only the line unit of a line changes, at an instant not before the last, and its state word is posted when it changes. -/
def State.lineOnly (s t : State) (l : Line) (now : Nat) (u : LineUnit) : Prop :=
  ({ s with lines := s.lines.set l u, clock := { s.clock with now := now } } : State).moves t [linePlace l] ∧
    (statusLine u ≠ statusLine (s.line l) → t.settledAt (linePlace l) = statusLine u)

/-- R77: the line rests in RECOVERY with its cause, every output released; the recovery runs 2 s. -/
def LineUnit.ended (u : LineUnit) (cause : Cause) (now : Nat) : LineUnit :=
  { u with
    state := .recovery, endCause := some cause, phase := .none, ctone := false, ctoneTimer := none,
    timer := some (now + 20000000) }

/-- The call record as it closes (R149). -/
def CallRecord.closed (c : CallRecord) (cause : Cause) (step : Nat) (clock : Clock) : CallRecord :=
  { c with
    endTime := some clock.calendar
    connectedTenths := match c.answerAt with
      | some t => (clock.now - t) / 1000000
      | none => 0
    step := step, cause := some cause, timeUnset := c.timeUnset || clock.unset, nextDue := none }

/-- R77, R108, R149, R126: the end of an outgoing call closes its record into the call log and lets the recipient
go; nothing of the other line changes. -/
def State.outgoingEnded (s t : State) (l : Line) (cause : Cause) (now : Nat) : Prop :=
  t.call l = none ∧ t.dispatch.serving.get l = none ∧
    ∀ c, s.call l = some c → t.charge.logProducer = s.charge.logProducer + 1 ∧
      t.showsAt (logPlace (s.charge.logProducer.toNat % 128))
        (callWords (some (c.closed cause (if (s.session l).role = .sender then (s.session l).negotiated else 0)
          { s.clock with now := now })))

/-- R64, R190: the guard after a change of a line's hook: its count runs from a full period when the first line goes
off-hook and stops when the last goes on-hook; a count that has reached 0 by then has expired (R81). -/
def State.guardAfter (s : State) (now : Nat) (offHook : Bool) : Guard :=
  { s.guard with
    deadline := if s.guard.enable && offHook then s.guard.deadline.or (some (now + (s.guard.period.getD 0) * 10000000))
      else s.guard.deadline.filter fun d => decide (d ≤ now) }

/-- What the end of a call on line `l` may change, and what it leaves. -/
def State.callFrame (s t : State) (l : Line) (now : Nat) : Prop :=
  ({ s with
      lines := s.lines.set l (t.line l), sessions := s.sessions.set l (t.session l), store := t.store, dispatch := t.dispatch
      charge := { s.charge with calls := s.charge.calls.set l (t.call l), logProducer := t.charge.logProducer }
      report := t.report
      guard := if (t.line l).hook = (s.line l).hook then s.guard
        else s.guardAfter now ((t.line l).hook || (s.line (Line.other l)).hook)
      clock := { s.clock with now := now } } : State).Alike t

/-- R77: the off-hook line's call has ended with the cause at an instant. -/
def State.callEnded (s t : State) (l : Line) (cause : Cause) (now : Nat) : Prop :=
  t.line l = (s.line l).ended cause now ∧ t.settledAt (linePlace l) = statusLine (t.line l) ∧
    ((s.line l).state = .connected → (t.session l).role = .none) ∧
    ((s.line l).state ≠ .connected → t.session l = s.session l) ∧
    ((s.line l).direction = some .outgoing → s.outgoingEnded t l cause now) ∧
    ((s.line l).direction ≠ some .outgoing → t.charge = s.charge ∧ t.dispatch.jobs = s.dispatch.jobs) ∧ s.callFrame t l now

/-- R70, R71: the symbols that pulse dialling skips at the front of a list. -/
def LineUnit.afterSkipped (u : LineUnit) (syms : List Symbol) : List Symbol :=
  if u.pulseDials then syms.dropWhile fun x => x == .star || x == .hash else syms

/-- R70 to R72: the line as the first of the symbols left begins, or as PROGRESS is entered when none is left. -/
def LineUnit.begun (u : LineUnit) (syms : List Symbol) (now : Nat) : LineUnit :=
  let u := { u with nextSymbol := u.nextSymbol + (syms.length - (u.afterSkipped syms).length) }
  match u.afterSkipped syms with
  | [] =>
    { u with
      state := .progress, phase := .none, firstEnded := true, timer := some (now + 600000000), ctone := true,
      ctoneTimer := some (now + 5000000) }
  | .pause :: _ => { u with phase := .pause, timer := some (now + 20000000) }
  | .wait :: _ => { u with phase := .waitTone, timer := some (now + 50000000) }
  | .digit d :: _ =>
    if u.pulseDials then { u with phase := .brk ((if d.val = 0 then 10 else d.val) - 1), timer := some (now + 600000) }
    else { u with phase := .strobe (.digit d), timer := some (now + 900000) }
  | x :: _ => { u with phase := .strobe x, timer := some (now + 900000) }

/-- The instant at which a timer of the line runs out. -/
def State.dueAt (s : State) (timer : Option Nat) : Nat := max s.clock.now (timer.getD 0)

/-! ## Sessions -/

/-- The place of a line's session word. -/
def sessionPlace (l : Line) : Nat := statusPlace + 9 + lineCode l

/-- Only the session of a line changes, at an instant; its word is posted when it changes (R86). -/
def State.sessionOnly (s t : State) (l : Line) (now : Nat) (x : Session) : Prop :=
  ({ s with sessions := s.sessions.set l x, clock := { s.clock with now := now } } : State).moves t [sessionPlace l] ∧
    (statusSession x ≠ statusSession (s.session l) → t.settledAt (sessionPlace l) = statusSession x)

/-- R102: a good frame of any kind restarts the receiver's idle timer, which does not run in CLEARING. -/
def Session.heard (x : Session) (now : Nat) : Session :=
  if x.role = .receiver ∧ x.state ≠ .clearing then { x with idleTimer := some (now + 60000000) } else x

/-- A frame that is not acted on restarts the idle timer at most, and posts nothing (R83). -/
def State.ignores (s t : State) (l : Line) : Prop :=
  ({ s with sessions := s.sessions.set l ((s.session l).heard s.clock.now) } : State).untouched t

/-- R84: a frame handed to the data pump at the negotiated step, or at step 1 before any training has passed. -/
def Session.sent (x : Session) (f : Frame) : Session := { x with sending := x.sending ++ [.frame f (max 1 x.negotiated)] }

/-- R103: CLEAR with a cause of the engine's own; no timer runs. An answer that waits for its writes is dropped (DESIGN CHOICE,
log 42). -/
def Session.cleared (x : Session) (c : Cause) : Session :=
  { x.sent (.clear c.code) with
    state := .clearing, endCause := some c, awaiting := none, inHand := [], drain := .none, responseTimer := none,
    idleTimer := none, identTimer := none }

/-- R88, R91, R98: SETUP at a step, as its first sending. -/
def Session.setupAt (x : Session) (id : List Byte) (step : Nat) : Session :=
  { x with
    training := some step, repeatBurst := false, state := .setupSent, sendings := 1, awaiting := some (.setup id step),
    responseTimer := none, sending := x.sending ++ [.frame (.setup id step) 1] }

/-- R93: PAGE_HEAD of the page with a record number. -/
def Session.headSent (x : Session) (n : Nat) (p : Page) : Session :=
  { x.sent (.pageHead x.position p.width p.lineCount p.codeBytes) with
    page := n, sendings := 1, blockNumber := 0, rounds := 0, state := .headSent,
    awaiting := some (.pageHead x.position p.width p.lineCount p.codeBytes), responseTimer := none }

/-- R93, R98: the engine becomes BLOCK and sends the first of the frames in hand, whose bytes it reads from the store. -/
def State.blockSent (s : State) (x : Session) (b n : Nat) (rest : List Nat) : Session :=
  { x.sent (.data b n (s.dataPayload { x with blockNumber := b } n)) with
    state := .block, blockNumber := b, inHand := rest, awaiting := none, responseTimer := none,
    reads := s.dataPlaces { x with blockNumber := b } n }

/-- R99: PAGE_END. -/
def Session.pageEndSent (x : Session) (more : Bool) : Session :=
  { x.sent (.pageEnd more) with
    sendings := 1, state := .pageEndSent, awaiting := some (.pageEnd more), responseTimer := none }

/-- A sender that takes answers: no cancel is pending (R107). -/
def Session.sendsIn (x : Session) (st : SessionState) : Prop := x.role = .sender ∧ x.state = st ∧ x.cancelPending = false

def Session.receivesIn (x : Session) (st : SessionState) : Prop := x.role = .receiver ∧ x.state = st

/-- The line serves recipient `i` of job `j`, with their records. -/
def State.servesFor (s : State) (l : Line) (j i : Nat) (w : Job) (r : Recipient) : Prop :=
  s.dispatch.serving.get l = some (j, i) ∧ s.job j = some w ∧ w.recipients[i]? = some r

/-- No DATA frame of the session block in hand has been taken. -/
def Session.fresh (x : Session) : Prop :=
  (∀ i : Fin 64, x.frameMap[i] = false) ∧ x.waitingData = [] ∧ x.storeFailed = false

/-- R105: RECEIVE_END of the session of a line. -/
def State.receiveEnd (s : State) (l : Line) (c : Cause) : Report :=
  let x := s.session l
  { kind := .receiveEnd, page := x.lastPage, line := some l, cause := some c, value1 := some x.pagesDone,
    value2 := some x.negotiated }

/-- R105: what the end of a receiving session does: a FILLING page is freed, RECEIVE_END is handed to the report
unit. -/
def State.receiverEnded (s t : State) (l : Line) (c : Cause) : Prop :=
  let x := s.session l
  (∀ p, x.page ≠ 0 → s.page x.page = some p → t.page x.page = none ∧ t.store.free = s.store.free ++ p.chain ∧
      t.showsAt (pagePlace x.page) (pageWords none)) ∧
    (x.page = 0 → t.store = s.store) ∧ t.report = (s.reported (s.receiveEnd l c)).report ∧ s.reportShown t (s.receiveEnd l c)

/-- R104, R105: the cause with which a CLEAR ends the call. -/
def clearEnds (role : Role) (code : Nat) : Cause :=
  if role = .sender then
    if code = 3 then .noResponse else if code = 6 then .remoteFull else if code = 7 then .remoteRefused else .protocol
  else
    [Cause.protocol, .completed, .cancelled, .noResponse, .trainFail, .lineQuality, .remoteFull, .remoteRefused,
      .protocol].getD code .protocol

/-! ## Jobs -/

/-- The places of a job's header and of one recipient record. -/
def jobPlaces (j : Nat) : List Nat := span (jobHeaderPlace j) 32

def recipientPlaces (j i : Nat) : List Nat := span (recipientRecordPlace j i) 8

def allRecipientPlaces (j : Nat) (x : Job) : List Nat := (List.range x.recipients.length).flatMap (recipientPlaces j)

/-- A job record changes. -/
def State.withJobRecord (s : State) (j : Nat) (x : Option Job) : State :=
  { s with dispatch := { s.dispatch with jobs := s.dispatch.jobs.put j x } }

/-- R130, step 2, for one page of the list: its send hold is cleared and its job field is 0; it is freed when no hold
is left (R15). -/
def Store.letGo (x : Store) (n : Nat) : Store :=
  match x.pages.get n with
  | none => x
  | some p =>
    if p.printHold || p.keepHold then { x with pages := x.pages.put n (some { p with sendHold := false, job := 0 }) }
    else { x with free := x.free ++ p.chain, pages := x.pages.put n none }

/-- R130, R131: JOB_FINISHED. -/
def finishReport (j : Nat) (x : Job) : Report := { kind := .jobFinished, job := j, value1 := some x.done, value2 := some x.failed }

/-- R130: the job finishes, its record being `x` before it. -/
def State.finished (s : State) (j : Nat) (x : Job) : State :=
  ({ s.withJobRecord j (some { x with state := .finished, pageList := [] }) with
      store := x.pageList.foldl Store.letGo s.store } : State).reported (finishReport j x)

/-- The places that the finish of a job posts. -/
def State.finishPlaces (s : State) (j : Nat) (x : Job) : List Nat :=
  x.pageList.flatMap (fun n => span (pagePlace n) 16) ++ [statusPlace + 3] ++ jobPlaces j ++ s.reportPlaces (finishReport j x)

/-- No recipient of the job is left WAITING or ON_LINE. -/
def Job.settledAll (x : Job) : Prop := ∀ r ∈ x.recipients, r.state ≠ .waiting ∧ r.state ≠ .onLine

/-- R128: the recipient after its call has ended at the uptime given; its job is `x`, which lists the pages to send. -/
def Recipient.afterCall (r : Recipient) (x : Job) (cause : Cause) (step uptime : Nat) : Recipient :=
  let givenBack := cause = .glare ∨ cause = .guard ∨ cause = .reset
  let attempts := if givenBack then r.attempts - 1 else r.attempts
  let again := cause = .busy ∨ cause = .noAnswer ∨ cause = .noDialTone ∨ cause = .noResponse ∨ cause = .trainFail ∨
    cause = .lineQuality ∨ cause = .carrierLost ∨ cause = .remoteFull ∨ cause = .hungUp
  let q := { r with lastCause := some cause, lastStep := some step, attempts := attempts }
  if r.pagesConfirmed = x.pageList.length then { q with state := .done }
  else if r.cancelMark then { q with state := .cancelled }
  else if cause = .completed then { q with state := .done }
  else if cause = .cancelled then { q with state := .cancelled }
  else if givenBack then { q with state := .waiting, nextTry := uptime }
  else if again ∧ attempts < x.maxAttempts then { q with state := .waiting, nextTry := uptime + x.interval * 60 }
  else { q with state := .failed }

/-- R128: the job after recipient `i` has become `r`, counted when that is terminal. -/
def Job.settledTo (x : Job) (i : Nat) (r : Recipient) : Job :=
  { x with
    recipients := x.recipients.set i r
    done := if r.state = .done then x.done + 1 else x.done
    failed := if r.state = .failed then x.failed + 1 else x.failed
    cancelled := if r.state = .cancelled then x.cancelled + 1 else x.cancelled }

/-- R131: the report of a recipient that a call end leaves in a terminal state. -/
def Recipient.endReport (r : Recipient) (j i : Nat) : Option Report :=
  let rep (kind : ReportKind) (cause : Option Cause) : Report :=
    { kind := kind, job := j, line := r.lastLine, recipient := some i, cause := cause, value1 := some r.pagesConfirmed,
      value2 := some r.attempts }
  if r.state = .done then some (rep .recipientDone r.lastCause)
  else if r.state = .failed then some (rep .recipientFailed r.lastCause)
  else if r.state = .cancelled then some (rep .recipientFailed (some .cancelled))
  else none

/-- R107: a session told of a cancel: the frame or burst at the data pump is finished first. -/
def Session.cancelled (x : Session) : Session :=
  let y : Session := { x with
    cancelPending := true, awaiting := none, inHand := [], responseTimer := none, idleTimer := none, identTimer := none,
    sending := x.sending.take 1 }
  if x.sending = [] then y.cleared .cancelled else y

/-- The line serves a recipient of job `j`. -/
def State.servesJob (s : State) (l : Line) (j : Nat) : Bool :=
  match s.dispatch.serving.get l with
  | some (j', _) => j' == j
  | none => false

/-- R107, R120: a cancel sent to the line reaches a connected sender that is not clearing and has none pending. -/
def State.cancelReaches (s : State) (l : Line) : Bool :=
  decide ((s.line l).state = .connected) && decide ((s.session l).role = .sender) &&
    decide ((s.session l).state ≠ .clearing) && !(s.session l).cancelPending

/-- R122: recipient `i` of job `j` is eligible. -/
def State.eligible (s : State) (j i : Nat) (w : Job) (r : Recipient) : Prop :=
  s.job j = some w ∧ w.recipients[i]? = some r ∧ (w.state = .ready ∨ w.state = .active) ∧ r.state = .waiting ∧
    r.nextTry ≤ s.clock.uptime

/-- R123: the recipient that the order takes: DEADLINE before NORMAL, then the lower submit sequence, then the lower
index. -/
def State.choice (s : State) (j i : Nat) (w : Job) (r : Recipient) : Prop :=
  s.eligible j i w r ∧ ∀ j' i' w' r', s.eligible j' i' w' r' →
    if j' = j then i ≤ i'
    else if w'.priority = w.priority then w.submitSeq.getD 0 < w'.submitSeq.getD 0
    else w.priority = .deadline

/-- R122: the line is free for dispatch. -/
def State.lineFree (s : State) (l : Line) : Prop :=
  s.fitted l = true ∧ (s.line l).state = .idle ∧ ((s.line l).settings.mode = .sendOnly ∨ (s.line l).settings.mode = .both) ∧
    s.guard.expired = false

/-! ## Charges -/

/-- R143: a charge adds to the desk's spent this month, which stops at 4294967295. -/
def Desk.charged (k : Desk) (a : Nat) : Desk := { k with spent := BitVec.ofNat 32 (min (k.spent.toNat + a) 4294967295) }

/-- R143: the same charge adds to the record's cost; a charge of 0 changes nothing. -/
def CallRecord.charged (c : CallRecord) (k : Desk) (a : Nat) : CallRecord :=
  if a = 0 then c
  else { c with
    cost := min (c.cost + a) 4294967295
    saturated := c.saturated || decide (4294967295 < c.cost + a) || decide (4294967295 < k.spent.toNat + a)
    overAllowance := c.overAllowance || (decide (k.allowance ≠ 0) && decide (k.allowance ≤ (k.charged a).spent)) }

/-- R146: the crossing test finds the desk at or above its allowance for the first time. -/
abbrev Desk.crosses (k : Desk) : Prop := k.overReported = false ∧ k.allowance ≠ 0 ∧ k.allowance ≤ k.spent

/-- R146. -/
def crossReport (d : Nat) (k : Desk) (job : Nat) (l : Option Line) : Report :=
  { kind := .deskOverAllowance, job := job, line := l, value1 := some d, value2 := some k.spent.toNat }

/-- The open record of a line is `c`, and its desk is `k`. -/
def State.withCall (s : State) (l : Line) (c : CallRecord) (k : Desk) : State :=
  { s with charge := { s.charge with
      calls := s.charge.calls.set l (some c), desks := s.charge.desks.setIfInBounds c.desk k } }

/-- R143, R146: one charge of `a` to the record `c` of a line and its desk, with its crossing test, but for its
postings. -/
def State.charged (s : State) (l : Line) (c : CallRecord) (a : Nat) : State :=
  let k := (s.desk c.desk).charged a
  let c' := c.charged (s.desk c.desk) a
  if a ≠ 0 ∧ k.crosses then
    (s.withCall l c' { k with overReported := true }).reported (crossReport c.desk k c.job (some l))
  else s.withCall l c' k

/-- R143, R146: one charge to the open record of a line, which is `c` before it, and to its desk, with its crossing
test and its postings. -/
def State.chargedAs (s t : State) (l : Line) (c : CallRecord) (a : Nat) : Prop :=
  let k := (s.desk c.desk).charged a
  let c' := c.charged (s.desk c.desk) a
  let rep := crossReport c.desk k c.job (some l)
  let places := span (openPlace l) 16 ++ span (deskRecordPlace c.desk) 8
  t.showsAt (openPlace l) (callWords (some c')) ∧
    (a = 0 ∨ ¬ k.crosses → (s.withCall l c' k).moves t places) ∧
    (a ≠ 0 → k.crosses →
      ((s.withCall l c' { k with overReported := true }).reported rep).moves t (places ++ s.reportPlaces rep))

/-- R152: a write absorbed by the tariff lock: the first of a lock period is reported. -/
def State.lockAbsorbs (s t : State) (w : Nat) (be : BitVec 4) : Prop :=
  let rep : Report := { kind := .writeAbsorbed, value1 := some (4 * w), value2 := some (enabledBytes be) }
  (s.charge.absorbedReported = true → s.untouched t) ∧
    (s.charge.absorbedReported = false →
      (({ s with charge := { s.charge with absorbedReported := true } } : State).reported rep).moves t
        ([statusPlace + 13] ++ s.reportPlaces rep))

/-- R150, R186: the consumer index that a written value is taken as. -/
def consumerAs (producer consumer written : BitVec 16) : BitVec 16 :=
  if (written - consumer).toNat ≤ (producer - consumer).toNat then written else producer

/-! ## The timetable (R165) -/

/-- R165: the registers after entry `i` has fired, and the places that its action and its report post. A PRINT_MODE that
starts a page is not said here. -/
def State.fired (s : State) (i : Nat) (e : TimetableEntry) : State × List Nat :=
  let l : Option Line := if e.arg = 0 then some .A else if e.arg = 1 then some .B else none
  let report (u : State) (job : Nat) (line : Option Line) (places : List Nat) (applied : Bool) : State × List Nat :=
    let rep : Report :=
      { kind := .timetableFired, job := job, line := line, value1 := some i, value2 := some (if applied then 0 else 1) }
    (u.reported rep, places ++ u.reportPlaces rep)
  if e.action = 0 then
    match s.job e.arg with
    | some x =>
      if x.state = .held then report (s.withJobRecord e.arg (some { x with state := .ready })) e.arg none (jobPlaces e.arg) true
      else report s e.arg none [] false
    | none => report s e.arg none [] false
  else if e.action = 1 then
    match l, lineModeOf e.lineMode with
    | some l', some m =>
      let u := s.line l'
      if s.fitted l' ∧ u.settings.mode ≠ m then
        report (s.setLine l' { u with settings := { u.settings with mode := m } }) 0 l [statusPlace + 7 + lineCode l'] true
      else report s 0 l [] false
    | _, _ => report s 0 l [] false
  else
    match printModeOf e.arg with
    | some m =>
      if s.render.mode ≠ m then report { s with render := { s.render with mode := m } } 0 none [statusPlace + 4] true
      else report s 0 none [] false
    | none => report s 0 none [] false

/-- The matching entries fire in index order (R164). -/
def State.firedAll (s : State) (entries : List (Nat × TimetableEntry)) (places : List Nat) : State × List Nat :=
  entries.foldl (fun r p => let f := r.1.fired p.1 p.2; (f.1, r.2 ++ f.2)) (s, places)

/-! ## Invariants -/

/-- R5: blocks of the free chain and of every page. -/
def Store.blocksHeld (x : Store) : Nat := x.free.length + (x.pages.toList.map fun p => (p.map fun p => p.chain.length).getD 0).sum

def Store.conserves (x : Store) : Prop := x.blocksHeld = x.total

end Sys2Proof.Machine
end

