-- ==== Sys2Proof/Certificates/Slice0/Obligations.lean ====
section
/-! DEFINITION. The statements for the provers. `s.takes` is the premise of every command row: no entry is in
progress, none is withdrawn, and the memory has its canonical form (an invariant, O4). A conclusion
`u.moves t places` says that the row's result `t` is `u`, the state the rule gives, but for postings at
the places listed: every other word of DRAM settles as before and every other register is as in `u`. `s.fits c` says that
the posting list has room for what the event of row `c` adds; with no room the event waits, and is then the same event of
the state that the wait leaves, in which it fits (`EventWaitsForRoom`, O10). -/

open Sys2Proof Sys2Proof.Machine

/-! ## The step -/

/-- The command at the front of the queue is run on the rest of the queue. -/
def Sys2Proof.Claim.StepRunsTheFrontCommand : Prop :=
  ∀ (c : Instr) (rest : List Instr) (s : State),
    s.pending = c :: rest → step s = exec c { s with pending := rest }

/-- The model's choice (log 4): on an empty queue one unit of the main clock passes and nothing else. -/
def Sys2Proof.Claim.EmptyQueueIdles : Prop :=
  ∀ s : State, s.pending = [] → ∃ t, step s = .next t ∧ t.clock.now = s.clock.now + 1 ∧
    t = { s with clock := { s.clock with now := t.clock.now } }

/-- Every row answers a next state in every state, and leaves the queue alone: nothing faults, nothing is
refused (log 6). -/
def Sys2Proof.Claim.EveryRowAnswers : Prop :=
  ∀ (c : Instr) (s : State), ∃ t, exec c s = .next t ∧ t.pending = s.pending

/-! ## Reset -/

/-- R180, R188 with R4, R6, R10, R43, R47, R48: the store is empty, no page and no job exists, every line
and every engine is idle. -/
def Sys2Proof.Claim.PowerOnRegisters : Prop :=
  ∀ straps : Straps, let s := State.powerOn straps
    s.path.straps = straps ∧ s.path.regions = none ∧ s.path.holdLimit = 64 ∧ s.path.postings = [] ∧
    s.store.total = 0 ∧ s.store.free = [] ∧ s.store.reserve = 32 ∧ (∀ n, s.page n = none) ∧
    s.coder.state = .idle ∧ s.render.rendering = false ∧ s.render.queue = [] ∧ s.render.mode = .run ∧ s.render.width = 2048 ∧
    (∀ l, (s.line l).state = .idle ∧ (s.session l).role = .none ∧ s.call l = none) ∧ (∀ j, s.job j = none) ∧
    s.stationId = [] ∧ s.charge.locked = false ∧ s.clock.unset = true ∧ s.clock.uptime = 0 ∧
    s.report.producer = 1 ∧ s.report.sequence = 2 ∧ s.report.overflow = false ∧ s.report.mode = .off ∧
    s.guard.enable = straps.guardForced ∧ s.guard.expired = false

/-- R20, R134, R188: the 255 page records stand in DRAM as FREE, the status record shows the reset values,
and RESTARTED with POWER_ON stands in entry 0 with sequence 1. -/
def Sys2Proof.Claim.PowerOnRecords : Prop :=
  ∀ straps : Straps, let s := State.powerOn straps
    s.showsAt statusPlace s.statusWords ∧ (∀ n, 1 ≤ n → n ≤ 255 → s.showsAt (pagePlace n) (pageWords none)) ∧
    (∀ j, 1 ≤ j → j ≤ 16 → s.showsAt (jobHeaderPlace j) (jobWords none)) ∧ s.settledAt reportProducerPlace = 1 ∧
    s.showsAt (reportPlace 0) (reportWords 1 0 Calendar.powerOn (restartedReport .powerOn straps))

/-- The memory of a power-on has its canonical form, whatever the straps. -/
def Sys2Proof.Claim.PowerOnMemoryCanonical : Prop := ∀ straps : Straps, Memory.wf (State.powerOn straps).mem = true

/-- R184, POWER_ON_RESET in any state: every register has its power-on value for the pins given, the control area but
the 16 command entries is as a power-on leaves it, and the command entries keep their contents. That the rest of DRAM keeps
its contents (log 2) and the rows that wait stay (log 1) are the model's choices. -/
def Sys2Proof.Claim.PowerOnReset : Prop :=
  ∀ (pins : BitVec 2) (two forced : Bool) (s : State), Memory.wf s.mem = true →
    let p := State.powerOn (Straps.latch pins two forced)
    let base := 4 * p.path.straps.controlBase
    let entries (a : Nat) : Prop := base + 0x100 ≤ a ∧ a < base + 0x300
    ∃ t, exec (.powerOnReset pins two forced) s = .next t ∧ t = { p with mem := t.mem, pending := s.pending } ∧
      (∀ a, base ≤ a → a < base + 65536 → ¬ entries a → Memory.read t.mem a = Memory.read p.mem a) ∧
      ∀ a, a < base ∨ base + 65536 ≤ a ∨ entries a → Memory.read t.mem a = Memory.read s.mem a

/-! ## Invariants -/

/-- Every step keeps the canonical form of the memory. -/
def Sys2Proof.Claim.MemoryStaysCanonical : Prop :=
  ∀ s t : State, Memory.wf s.mem = true → step s = .next t → Memory.wf t.mem = true

/-- R5: blocks move between chains and are never created or dropped. -/
def Sys2Proof.Claim.BlocksConserved : Prop :=
  ∀ s t : State, s.store.conserves → step s = .next t → t.store.conserves

/-- R43: the print queue never holds more than 64 pages. -/
def Sys2Proof.Claim.PrintQueueBounded : Prop :=
  ∀ s t : State, s.render.queue.length ≤ 64 → step s = .next t → t.render.queue.length ≤ 64

/-- R176: the posting list never holds more than 128 items, and an item stands behind it only while it holds 128 (log 9). -/
def Sys2Proof.Claim.PostingListBounded : Prop :=
  ∀ s t : State, s.listInOrder → step s = .next t → t.listInOrder

/-- R171, R174: words of the bus stay behind a word held, or behind one at the port (log 14), and never wait behind nothing. -/
def Sys2Proof.Claim.BusStaysInOrder : Prop :=
  ∀ s t : State, s.busInOrder → step s = .next t → t.busInOrder

/-- R174: a word held meets its hold condition for as long as it is held. It stays so because a word held leaves none at the
port, the capture slots are FREE while the coder is IDLE, and the render slots have no line while the decoder is. -/
def Sys2Proof.Claim.HoldsStayInOrder : Prop :=
  ∀ s t : State, s.holdsInOrder → step s = .next t → t.holdsInOrder

/-- R49, R52: a page starts with slot `i` awaiting line `i`, and a slot whose line `k` ends awaits line `k + 8`: a line stays
in the slot of its number modulo 8. -/
def Sys2Proof.Claim.SlotLinesStayInPlace : Prop :=
  ∀ s t : State, s.render.linesInPlace → step s = .next t → t.render.linesInPlace

def Sys2Proof.Claim.PowerOnPathInOrder : Prop :=
  ∀ straps : Straps, (State.powerOn straps).busInOrder ∧ (State.powerOn straps).holdsInOrder ∧
    (State.powerOn straps).render.linesInPlace

/-- R180: at least 1 MiB of DRAM is fitted. -/
def Sys2Proof.Claim.DramFitted : Prop :=
  ∀ s t : State, 1 ≤ s.path.straps.dramMiB → step s = .next t → 1 ≤ t.path.straps.dramMiB

/-- R180: the straps are latched at power-on and at no other event. -/
def Sys2Proof.Claim.StrapsLatchedOnce : Prop :=
  ∀ (c : Instr) (s t : State), exec c s = .next t →
    t.path.straps = s.path.straps ∨ ∃ pins two forced, c = .powerOnReset pins two forced ∧ t.path.straps = Straps.latch pins two forced

/-- R157: uptime is changed by its own advance and by power-on only; SET_CLOCK, a crystal stop and a host
reset leave it. -/
def Sys2Proof.Claim.UptimeOnlyAtItsAdvance : Prop :=
  ∀ (c : Instr) (s t : State), exec c s = .next t →
    t.clock.uptime = s.clock.uptime ∨ (c = .uptimeAdvance ∧ t.clock.uptime = s.clock.uptime + 1) ∨
      ∃ pins two forced, c = .powerOnReset pins two forced ∧ t.clock.uptime = 0

/-! ## Codes -/

/-- R196, R83: an engine reads from the bytes that are sent the frame that was sent, every field of it, for
every frame whose fields the layout can carry. -/
def Sys2Proof.Claim.FrameBytesRoundTrip : Prop := ∀ f : Frame, f.carried → Frame.parse f.wire = some f

/-- R37 to R41: the token that the coder writes for a line is read back as that line, whatever the reference
and whatever code follows, and the reading ends where the token ends. -/
def Sys2Proof.Claim.BandCodeRoundTrip : Prop :=
  ∀ (w : Nat) (reference line rest : List Bool), 0 < w → w ≤ 2560 → reference.length = w → line.length = w →
    readLine (fun i => (lineToken reference line ++ rest)[i]?) w reference 0 =
      { line := line, pos := (lineToken reference line).length, stopped := false, damaged := false }

/-- R39: packing code bits into bytes loses none: bit i of the code is bit 7 − (i mod 8) of byte i / 8. -/
def Sys2Proof.Claim.CodeBitsPacked : Prop :=
  ∀ bits : List Bool,
    (splitBytes bits).1.flatMap bitsOfByte ++ (splitBytes bits).2 = bits ∧ (splitBytes bits).2.length < 8 ∧
      ∀ (i : Nat) (b : Bool), bits[i]? = some b → i / 8 < bits.length / 8 →
        ((splitBytes bits).1.getD (i / 8) 0).getLsbD (7 - i % 8) = b

/-! ## The posting list, commands and reports -/

/-- R177: a word posted settles with the value posted, whatever the list held, and no other word of DRAM
settles anew; handing the head item to DRAM settles nothing anew. -/
def Sys2Proof.Claim.PostingSettles : Prop :=
  ∀ (s : State) (place : Nat) (v : Word), Memory.wf s.mem = true →
    (s.post place v).settledAt place = v ∧ s.moves (s.post place v) [place] ∧ s.moves s.handHead []

/-- R176: an event that adds items to the list waits while the list has no room for them, and is then taken: with no word
of the bus at the port, what goes before it is accesses of the poster and of the engines, which leave every register and
every settled word of DRAM as it was but for words that an engine writes, and the event is that of the state `v` that they
leave, in which it fits. An event that fits is taken at once. That the accesses are made inside the row, and that an event
that adds more than a whole list is taken when the list is empty, are the model's choices (log 9). The rows whose events ask
for reads are those of `EventReads`: they are taken when their reads have been made. -/
def Sys2Proof.Claim.EventWaitsForRoom : Prop :=
  ∀ (c : Instr) (s : State), asksReads c = false → Memory.wf s.mem = true → s.busQuiet → s.quietReads → s.listInOrder →
    ∃ v, exec c s = exec c v ∧ v.fits c ∧ s.accessesMade v ∧ Memory.wf v.mem = true ∧ v.listInOrder ∧
      (∀ w, ¬ s.engineWrites w → v.settledWord w = s.settledWord w) ∧ (s.fits c → v = s)

/-- R176: a word posted joins the tail of a list with room, and stands behind a full one, where nothing reaches DRAM for it
(log 9: what an event adds beyond a whole list); a posting of the word that has not been handed takes the new value in its
place, and no item joins. -/
def Sys2Proof.Claim.PostingWaitsForRoom : Prop :=
  ∀ (s : State) (place : Nat) (v : Word),
    let w := s.path.straps.controlBase + place
    let handed := if s.path.headHanded then 1 else 0
    let t := s.post place v
    t.mem = s.mem ∧
      ((∀ u, .write w u ∉ s.path.postings.drop handed ++ s.path.waiting) →
        (s.path.postings.length < 128 → s.path.waiting = [] →
          t.path.postings = s.path.postings ++ [.write w v] ∧ t.path.waiting = []) ∧
        (s.path.postings.length = 128 →
          t.path.postings = s.path.postings ∧ t.path.waiting = s.path.waiting ++ [.write w v])) ∧
      ((∃ u, .write w u ∈ s.path.postings.drop handed ++ s.path.waiting) →
        t.path.postings.length = s.path.postings.length ∧ t.path.waiting.length = s.path.waiting.length)

/-- R176: POSTING_WRITE makes the access of the head item that a grant has put at the port: a word posting has its value
in DRAM, the list is shorter by that item, what waits for room joins it (log 9), and nothing else changes. With no item at
the port nothing changes (log 13). No entry that has arrived waits here (log 8). -/
def Sys2Proof.Claim.PostingWriteWord : Prop :=
  ∀ s : State, Memory.wf s.mem = true → s.command.fetched = none → s.path.stalled = [] →
    (∀ w n a rest, s.path.postings ≠ .read w n a :: rest) →
    ∃ t, exec .postingWrite s = .next t ∧ s.moves t [] ∧
      (s.path.headHanded = false ∨ s.path.postings = [] → s.untouched t) ∧
      ∀ w v rest, s.path.headHanded = true → s.path.postings = .write w v :: rest →
        t.mem = Memory.writeWord s.mem w v ∧ t.path.headHanded = false ∧
          t.path.postings = rest ++ s.path.waiting.take (128 - rest.length) ∧
          t.path.waiting = s.path.waiting.drop (128 - rest.length)

/-- R176, R178: the reads that an event asks for: with no word of the bus at the port, the accesses until the last of them
has been made are those of the poster and of the engines, and move nothing else; all of the list has then been handed, so a
word of DRAM that no engine writes has its settled value, and the reads have brought the words that settled; an engine's
accesses are the first of its work. With no read of an entry under way none has arrived. That the accesses
are made inside the row is the model's choice (log 10). -/
def Sys2Proof.Claim.EventReads : Prop :=
  ∀ (s : State) (desks : List Nat) (a : Asker) (reads : List (Nat × Nat)), Memory.wf s.mem = true → a = .charge ∨ a = .clock → reads ≠ [] →
    s.busQuiet →
    let v := s.readNow desks a reads
    s.accessesMade v ∧ Memory.wf v.mem = true ∧ v.path.items = [] ∧ v.path.headHanded = false ∧
      (∀ w, ¬ s.engineWrites w → Memory.readWord v.mem w = s.settledWord w) ∧
      (∀ r ∈ reads, ∀ i, i < r.2 → ¬ s.engineWrites (s.path.straps.controlBase + r.1 + i) →
        v.tableWord (r.1 + i) = s.settledAt (r.1 + i)) ∧
      v.coder.writes <:+ s.coder.writes ∧ v.render.writes <:+ s.render.writes ∧
      (∀ l, (v.session l).writes <:+ (s.session l).writes ∧ (v.session l).reads <:+ (s.session l).reads) ∧
      (s.quietReads → v.command.fetched = none)

/-- R182, section 11.4: POSTING_WRITE takes the entry whose words have arrived, and does what the row of the command that
they hold does, for each of the 28 kinds and for any other. The words arrive when the read of the entry, at the port, is
made. That words which have arrived before are taken first is the model's choice (log 8). -/
def Sys2Proof.Claim.PostingWriteTakesEntry : Prop :=
  (∀ (s : State) (w0 w1 w2 w3 w4 w5 w6 w7 : Word), s.path.stalled = [] →
    s.command.fetched = some [w0, w1, w2, w3, w4, w5, w6, w7] → s.fits .postingWrite →
    ∃ t, exec .postingWrite s = .next t ∧ exec (rowOfEntry w0 w1 w2 w3 w4 w5) s = .next t) ∧
  ∀ (r : State) (w : Nat) (rest : List PostItem), r.path.stalled = [] → r.command.fetched = none →
    r.path.headHanded = true → r.path.postings = .read w 8 .command :: rest →
    let word (i : Nat) := Memory.readWord r.mem (w + i)
    let s : State := { r with
      path := ({ r.path with
        postings := rest, headHanded := false, requests := { r.path.requests with poster := none } } : Path).fill
      command := { r.command with fetched := some ((List.range 8).map word) } }
    r.fits .postingWrite → s.fits (rowOfEntry (word 0) (word 1) (word 2) (word 3) (word 4) (word 5)) →
    ∃ t, exec .postingWrite r = .next t ∧ exec (rowOfEntry (word 0) (word 1) (word 2) (word 3) (word 4) (word 5)) s = .next t

/-- R182: while an entry is in progress no other is taken: its row changes nothing. One whose read has been
withdrawn is discarded with the data of that read, also when the producer index has taken the entry in again; the unit then
asks anew (log 18). -/
def Sys2Proof.Claim.EntryNotTaken : Prop :=
  ∀ (c : Instr) (s : State), isEntry c = true → Memory.wf s.mem = true → s.path.stalled = [] →
    (s.command.inProgress ≠ none → ∃ t, exec c s = .next t ∧ s.untouched t) ∧
    (s.command.inProgress = none → s.command.withdrawn = true → s.fits c →
      ∃ t, exec c s = .next t ∧ s.moves t [] ∧ t.command.withdrawn = false ∧ t.command.fetched = none ∧
        t.command.readAsked = decide (s.command.producer ≠ s.command.consumer))

/-- R182, R183: an entry of a kind that is none of the 28 is refused BAD_ARGUMENT and reaches no block. -/
def Sys2Proof.Claim.UnknownKindRefused : Prop :=
  ∀ (kind : Byte) (tag : Tag) (s : State), s.takes → kind.toNat = 0 ∨ 28 < kind.toNat →
    s.fits (.unknownCommandKind kind tag) →
    ∃ t, exec (.unknownCommandKind kind tag) s = .next t ∧ s.refusedWith t tag .badArgument

/-- R181: a host write of the command producer index passes to DRAM, and the index is taken by its distance
ahead of the consumer index; the status word is posted. -/
def Sys2Proof.Claim.CommandProducerWrite : Prop :=
  ∀ (be : BitVec 4) (data : Word) (s : State), Memory.wf s.mem = true → s.path.held = none → be ≠ 0 →
    0 < s.path.straps.dramMiB → s.portFree →
    let w := s.path.straps.controlBase + commandProducerPlace
    let mem := Memory.writeMasked s.mem w be data
    let written : BitVec 16 := (Memory.readWord mem w).extractLsb' 0 16
    let distance := (written - s.command.consumer).toNat
    let taken :=
      if 16 < distance then s.command.consumer + 16
      else if distance = 0 ∧ s.command.inProgress.isSome then s.command.consumer + 1
      else written
    s.fits (.commandProducerWrite be data) → ∃ t, exec (.commandProducerWrite be data) s = .next t ∧
      ({ s with mem := mem, command := { s.command with producer := taken } } : State).moves t [statusPlace + 14] ∧
      t.settledAt (statusPlace + 14) = statusCommand t.command ∧
      (taken ≠ s.command.consumer → s.command.inProgress = none → t.command.readAsked = true) ∧
      (taken = s.command.consumer → s.command.readAsked = true → t.command.withdrawn = true)

/-- R182: the data of a read whose entry was withdrawn are discarded. The unit asks anew when an entry is pending again and
none is in progress (log 18). With no withdrawn read outstanding the event cannot happen, and its row changes nothing
(log 6). -/
def Sys2Proof.Claim.CommandReadDiscarded : Prop :=
  ∀ s : State, Memory.wf s.mem = true →
    s.fits .commandReadDiscarded → ∃ t, exec .commandReadDiscarded s = .next t ∧ s.moves t [] ∧
      (s.command.readAsked = true → s.command.withdrawn = true →
        t.command.withdrawn = false ∧ t.command.fetched = none ∧
          t.command.readAsked = decide (s.command.producer ≠ s.command.consumer ∧ s.command.inProgress = none)) ∧
      (s.command.readAsked = false ∨ s.command.withdrawn = false → s.untouched t)

/-- R185: a report of an enabled class takes the sequence number and stands in the ring's next entry, with
the producer index after it; with 64 entries unconsumed it is dropped and OVERFLOW is set; a masked one
changes nothing. -/
def Sys2Proof.Claim.ReportHanded : Prop :=
  ∀ (s : State) (r : Report), Memory.wf s.mem = true →
    (s.reported r).moves (s.handReport r) (s.reportPlaces r) ∧
    (s.report.mask.getLsbD r.kind.cls = true → s.report.unconsumed < 64 →
      (s.handReport r).showsAt (reportPlace (s.report.producer.toNat % 64))
        (reportWords s.report.sequence s.clock.uptime s.clock.calendar r) ∧
      (s.handReport r).settledAt reportProducerPlace = (s.report.producer + 1).setWidth 32)

/-! ## Chapter 1: the page store -/

/-- R18. -/
def Sys2Proof.Claim.KeepPage : Prop :=
  ∀ (tag : Tag) (page : Word) (s : State), s.takes →
    s.fits (.keepPage tag page) → ∃ t, exec (.keepPage tag page) s = .next t ∧
      match s.completePage page.toNat with
      | none => s.refusedWith t tag .noSuch
      | some p =>
        s.answered t tag (.done 0) ∧
          if p.keepHold then s.commandDone.moves t s.commandPlaces
          else
            (s.commandDone.setPage page.toNat (some { p with keepHold := true })).moves t
                (s.commandPlaces ++ span (pagePlace page.toNat) 16) ∧
              t.showsAt (pagePlace page.toNat) (pageWords (some { p with keepHold := true }))

/-- R19, R15: without another hold the page is freed in the event, its chain at the tail of the free chain. -/
def Sys2Proof.Claim.ReleasePage : Prop :=
  ∀ (tag : Tag) (page : Word) (s : State), s.takes →
    s.fits (.releasePage tag page) → ∃ t, exec (.releasePage tag page) s = .next t ∧
      match s.completePage page.toNat with
      | none => s.refusedWith t tag .noSuch
      | some p =>
        if p.keepHold = false then s.commandDone.moves t s.commandPlaces ∧ s.answered t tag (.done 0)
        else if p.sendHold || p.printHold then
          (s.commandDone.setPage page.toNat (some { p with keepHold := false })).moves t
              (s.commandPlaces ++ span (pagePlace page.toNat) 16) ∧
            t.showsAt (pagePlace page.toNat) (pageWords (some { p with keepHold := false })) ∧ s.answered t tag (.done 0)
        else
          ({ s.commandDone with store := { s.store with
                free := s.store.free ++ p.chain, pages := s.store.pages.put page.toNat none } } : State).moves t
              (s.commandPlaces ++ span (pagePlace page.toNat) 16 ++ [statusPlace + 3]) ∧
            t.showsAt (pagePlace page.toNat) (pageWords none) ∧
            t.settledAt (statusPlace + 3) = statusStore t.store ∧ s.answered t tag (.done 1)

/-- R6: the reserve is the least of the value, 255 and half the store total, which is also the result. -/
def Sys2Proof.Claim.SetReserve : Prop :=
  ∀ (tag : Tag) (n : Word) (s : State), s.takes →
    let r := min n.toNat (min 255 (s.store.total / 2))
    s.fits (.setReserve tag n) → ∃ t, exec (.setReserve tag n) s = .next t ∧
      ({ s.commandDone with store := { s.store with reserve := r } } : State).moves t (s.commandPlaces ++ [statusPlace + 3]) ∧
      s.answered t tag (.done (BitVec.ofNat 32 r)) ∧
      (r ≠ s.store.reserve → t.settledAt (statusPlace + 3) = statusStore t.store)

/-- R172, R173, R2: the tests of the regions, in order, and the rebuilt store. That the capture slots are FREE with the line
numbers that OPEN_CAPTURE gives them is the model's choice (log 20). -/
def Sys2Proof.Claim.SetRegions : Prop :=
  ∀ (tag : Tag) (storeBase storeLength captureBase renderBase holdLimit : Word) (s : State), s.takes →
    let sb := storeBase.toNat % 16777216
    let cb := captureBase.toNat % 16777216
    let rb := renderBase.toNat % 16777216
    let len := storeLength.toNat
    let top := s.path.straps.dramMiB * 1048576 - 65536
    let limit := max 8 (min holdLimit.toNat 255)
    s.fits (.setRegions tag storeBase storeLength captureBase renderBase holdLimit) →
    ∃ t, exec (.setRegions tag storeBase storeLength captureBase renderBase holdLimit) s = .next t ∧
      (¬ regionTests top sb len cb rb → s.refusedWith t tag .badArgument) ∧
      (regionTests top sb len cb rb → (∃ n, s.page n ≠ none) ∨ s.coder.state ≠ .idle ∨ s.render.rendering = true →
        s.refusedWith t tag .busy) ∧
      (regionTests top sb len cb rb → (∀ n, s.page n = none) → s.coder.state = .idle → s.render.rendering = false →
        ({ s.commandDone with
            path := { s.path with regions := some ⟨sb, len, cb, rb⟩, holdLimit := limit }
            store := { s.store with total := len / 2048, free := List.range (len / 2048), reserve := min 32 (len / 2048 / 2) }
            coder := { s.coder with slots := t.coder.slots }
            render := { s.render with slots := t.render.slots } } : State).moves t
          (s.commandPlaces ++ span statusPlace 4) ∧
        (∀ i : Fin 8, t.coder.slots[i] = .free i.val ∧ t.render.slots[i] = .noLine) ∧
        t.settledAt (statusPlace + 3) = statusStore t.store ∧ t.showsAt statusPlace [statusPath t.path, statusBases t.path] ∧
        t.settledAt (statusPlace + 2) = statusRenderBase t.path ∧ s.answered t tag (.done (BitVec.ofNat 32 limit)))

/-- R7, R20: a capture allocation takes the head block while the free chain is longer than the reserve; the code that
waited goes into the page's chain whole, or waits on, and where the turn of END comes with it END is coded too (R33, log 20);
the page record is posted with what the page then counts. -/
def Sys2Proof.Claim.CaptureAllocationGranted : Prop :=
  ∀ (s : State) (p : Page) (c : AskedCode), Memory.wf s.mem = true → s.path.stalled = [] → s.coder.asked = some c →
    s.page s.coder.page = some p → s.store.reserve < s.store.free.length →
    (s.coder.closing = false ∨ s.path.held = none) →
    let g : Page := { p with chain := p.chain ++ s.store.free.take 1 }
    let d := s.codedTo s.coder g c
    s.fits .captureAllocation → ∃ t q, exec .captureAllocation s = .next t ∧ s.endTurned d.1 d.2 (t.coder, q) ∧
      ({ s with
          store := { s.store with free := s.store.free.drop 1, pages := s.store.pages.put s.coder.page (some q) }
          coder := t.coder } : State).moves t (span (pagePlace s.coder.page) 16 ++ [statusPlace + 3]) ∧
      t.settledAt (statusPlace + 3) = statusStore t.store ∧ t.showsAt (pagePlace s.coder.page) (pageWords (some q))

/-- R7, R31, R33: refused, it ends the page: the page is freed, every PENDING slot becomes FREE with next line 8 higher,
CAPTURE_FULL is handed to the report unit, and the context is FULL; while the coder closes, the context is IDLE and
CLOSE_CAPTURE ends with 0; a held capture write is released and passes at a free port. That code bytes which have not yet
reached DRAM are dropped with the page is the model's choice (log 41), and so are, in IDLE, the line numbers of the slots
(log 20) and the other fields of the context that the rules do not give (log 43). A word held here meets its hold condition,
an invariant (`PathInOrder`). -/
def Sys2Proof.Claim.CaptureAllocationRefused : Prop :=
  ∀ (s : State) (p : Page) (c : AskedCode), Memory.wf s.mem = true → s.heldMeets → s.path.stalled = [] →
    s.coder.asked = some c → s.page s.coder.page = some p → s.store.free.length ≤ s.store.reserve →
    let rep : Report :=
      { kind := .captureFull, page := s.coder.page, job := s.coder.job, value1 := some p.lineCount,
        value2 := some s.store.free.length }
    let freed : State := { s with
      store := { s.store with free := s.store.free ++ p.chain, pages := s.store.pages.put s.coder.page none } }
    let places := span (pagePlace s.coder.page) 16 ++ [statusPlace + 3] ++ s.reportPlaces rep
    s.fits .captureAllocation → ∃ t, exec .captureAllocation s = .next t ∧ t.page s.coder.page = none ∧
      t.showsAt (pagePlace s.coder.page) (pageWords none) ∧ s.reportShown t rep ∧
      (∀ w be data since slot word, s.path.held = some ⟨.write w be data, since⟩ → s.path.areaOf w = .captureSlot slot word →
        be ≠ 0 → s.portFree →
        t.path.held = none ∧ Memory.readWord t.mem w = Memory.readWord (Memory.writeMasked s.mem w be data) w) ∧
      (s.coder.closing = false →
        t.coder = { s.coder with
            state := .full, slots := t.coder.slots, lost := [], asked := none, tail := [], writes := [] } ∧
          (s.path.held = none →
            s.coder.slotsFreed t.coder ∧ (({ freed with coder := t.coder } : State).reported rep).moves t places)) ∧
      (∀ tag, s.coder.closing = true → s.command.inProgress = some ⟨2, tag⟩ →
        s.answered t tag (.done 0) ∧ t.coder = Coder.powerOn ∧
          (s.path.held = none →
            (({ freed with
                coder := Coder.powerOn
                command := { s.command with consumer := s.command.consumer + 1, inProgress := none } } : State).reported
              rep).moves t (places ++ s.commandPlaces)))

/-- R8, R95: a receive allocation takes its blocks whatever the reserve, and the frames that waited for it go
on their way to the store, each held in the frame map; refused, no block is taken and the page is freed. A BLOCK_END that
waited is then answered as R97 gives: STORE_FULL, PROTOCOL for a wrong count, GAPS, or the drain of the session block. Of
several that waited each is answered, but the drain has one BLOCK_OK (log 21). -/
def Sys2Proof.Claim.ReceiveAllocation : Prop :=
  ∀ (line : Line) (s : State) (p : Page) (n : Nat), Memory.wf s.mem = true → (s.session line).allocAsked = some n →
    s.page (s.session line).page = some p →
    let x := s.session line
    let places := span (pagePlace x.page) 16 ++ [statusPlace + 3, sessionPlace line]
    let q : Page := { p with chain := p.chain ++ s.store.free.take n }
    let frames := blockFrames p.codeBytes x.blockNumber
    let held (m : Nat) : Bool := x.frameMap.getD m false || x.waitingData.any fun d => d.1 == m
    let missing := (List.range frames).filter fun m => !held m
    let writes := x.waitingData.flatMap fun d =>
      d.2.zipIdx.map fun b => (s.codeAddr q (16384 * x.blockNumber + 256 * d.1 + b.2), b.1)
    let taking := x.role = .receiver ∧ (x.state = .receiving ∨ x.state = .waitBurst)
    s.fits (.receiveAllocation line) →
    ∃ t, exec (.receiveAllocation line) s = .next t ∧ (t.session line).allocAsked = none ∧ (t.session line).waitingData = [] ∧
      (t.session line).waitingEnds = [] ∧
      let y := t.session line
      if n ≤ s.store.free.length then
        y.page = x.page ∧ y.storeFailed = x.storeFailed ∧
        ((∀ d ∈ x.waitingData, d.1 < 64) → x.waitingEnds = [] →
          (∀ m, m < 64 → y.frameMap.getD m false = held m) ∧ y.writes = x.writes ++ writes ∧ y.sending = x.sending ∧
            y.state = x.state) ∧
        ((∀ d ∈ x.waitingData, d.1 < 64) → taking → x.storeFailed = false → (∃ d ∈ x.waitingData, d.2 ≠ []) →
          x.waitingEnds ≠ [] →
          ((∃ count ∈ x.waitingEnds, count ≠ frames) → y.state = .clearing ∧ y.endCause = some .protocol) ∧
          ((∀ count ∈ x.waitingEnds, count = frames) → missing ≠ [] → y.state = x.state ∧
            y.sending = x.sending ++ x.waitingEnds.map fun _ => .frame (.gaps x.blockNumber missing) (max 1 x.negotiated)) ∧
          ((∀ count ∈ x.waitingEnds, count = frames) → missing = [] →
            y.state = x.state ∧ y.drain = .block ∧ y.sending = x.sending ∧ y.writes = x.writes ++ writes)) ∧
        ({ s with
            store := { s.store with free := s.store.free.drop n, pages := s.store.pages.put x.page (some q) }
            sessions := s.sessions.set line y } : State).moves t places
      else
        y.storeFailed = true ∧ y.page = 0 ∧
        (taking → x.waitingEnds ≠ [] →
          y.state = .waitClear ∧
            y.sending = x.sending ++ x.waitingEnds.map fun _ => .frame .storeFull (max 1 x.negotiated)) ∧
        ({ s with
            store := { s.store with free := s.store.free ++ p.chain, pages := s.store.pages.put x.page none }
            sessions := s.sessions.set line y } : State).moves t places

/-! ## Chapter 9: the memory path -/

/-- R172: the regions in force pass the tests of SET_REGIONS, after every step. -/
def Sys2Proof.Claim.RegionsStaySound : Prop :=
  ∀ s t : State, s.regionsSound → step s = .next t → t.regionsSound

/-- R168, R169, R170, R178: a host write that passes unobserved reaches DRAM with its enabled bytes and does nothing
else (plain DRAM, capture bytes 2560 to 4095, command ring, timetable), in its own event when the port is free, and else it
waits at the port; an absorbed or discarded one changes nothing and does not wait (beyond DRAM, store region, render
window, the part-owned words); behind a word that is held, or that waits at the port, it waits (log 14). -/
def Sys2Proof.Claim.HostWriteByArea : Prop :=
  ∀ (addr : BitVec 24) (be : BitVec 4) (data : Word) (s : State), 4 ∣ addr.toNat → be ≠ 0 → s.regionsSound →
    1 ≤ s.path.straps.dramMiB →
    let a := addr.toNat
    let d := s.path.straps.dramMiB * 1048576
    let o := a - (d - 65536)
    ∃ t, exec (.hostWrite addr be data) s = .next t ∧
      (s.path.held ≠ none ∨ s.path.atPort ≠ none →
        ({ s with path := { s.path with stalled := s.path.stalled ++ [.write (a / 4) be data] } } : State).untouched t) ∧
      (s.path.held = none → s.path.atPort = none →
        (d ≤ a → s.untouched t) ∧
        (a < d - 65536 → s.path.regions = none → s.passesInTurn t (a / 4) be data) ∧
        (∀ r, a < d - 65536 → s.path.regions = some r →
          (r.storeBase ≤ a ∧ a < r.storeBase + r.storeLength → s.untouched t) ∧
          (r.renderBase ≤ a ∧ a < r.renderBase + 4096 → s.untouched t) ∧
          (r.captureBase + 2560 ≤ a ∧ a < r.captureBase + 4096 → s.passesInTurn t (a / 4) be data) ∧
          ((a < r.storeBase ∨ r.storeBase + r.storeLength ≤ a) → (a < r.renderBase ∨ r.renderBase + 4096 ≤ a) →
            (a < r.captureBase ∨ r.captureBase + 4096 ≤ a) → s.passesInTurn t (a / 4) be data)) ∧
        (d - 65536 ≤ a → a < d →
          ((0x100 ≤ o ∧ o < 0x300) ∨ (0x7900 ≤ o ∧ o < 0x7A00) → s.passesInTurn t (a / 4) be data) ∧
          (o < 0x90 ∨ (0xA0 ≤ o ∧ o < 0x100) ∨ (0x300 ≤ o ∧ o < 0x7000) ∨ (0x7000 ≤ o ∧ o < 0x7400 ∧ 8 ≤ o % 32) ∨
            (0x78A8 ≤ o ∧ o < 0x7900) ∨ 0x7A00 ≤ o → s.untouched t)))

/-- R170: a host write of an observed word of the control area is the row of that word. So is one of a word of the capture
window, for regions that pass the tests of R172, as they do after every step (`RegionsStaySound`). -/
def Sys2Proof.Claim.HostWriteObserved : Prop :=
  ∀ (addr : BitVec 24) (be : BitVec 4) (data : Word) (s : State),
    let c := s.path.straps.controlBase
    (addr.toNat / 4 = c + commandProducerPlace → exec (.hostWrite addr be data) s = exec (.commandProducerWrite be data) s) ∧
    (addr.toNat / 4 = c + reportConsumerPlace → exec (.hostWrite addr be data) s = exec (.reportConsumerWrite be data) s) ∧
    (addr.toNat / 4 = c + logConsumerPlace → exec (.hostWrite addr be data) s = exec (.callLogConsumerWrite be data) s) ∧
    (addr.toNat / 4 = c + guardPlace → exec (.hostWrite addr be data) s = exec (.guardKick be data) s) ∧
    (∀ desk : Fin 32, (addr.toNat / 4 = c + deskPlace + 8 * desk.val →
        exec (.hostWrite addr be data) s = exec (.deskFieldWrite desk false be data) s) ∧
      (addr.toNat / 4 = c + deskPlace + 8 * desk.val + 1 →
        exec (.hostWrite addr be data) s = exec (.deskFieldWrite desk true be data) s)) ∧
    (∀ (r : Regions) (word : BitVec 10), s.regionsSound → 1 ≤ s.path.straps.dramMiB → s.path.regions = some r →
      addr.toNat / 4 = r.captureBase / 4 + word.toNat →
      exec (.hostWrite addr be data) s = exec (.captureWindowWrite word be data) s)

/-- R178, R179: an observed word, a word of a window and a read that would pass wait at the port while an item of the
poster stands there or an engine has waited 2 µs: they are made at a grant of the bus (`ArbiterGrant`). -/
def Sys2Proof.Claim.BusWaits : Prop :=
  ∀ (be : BitVec 4) (data : Word) (s : State), be ≠ 0 → s.path.held = none → s.path.atPort = none → s.portBusy →
    1 ≤ s.path.straps.dramMiB → s.regionsSound →
    let c := s.path.straps.controlBase
    let waits (i : Instr) (op : BusOp) : Prop := ∃ t, exec i s = .next t ∧ s.waitsAtPort t op
    waits (.commandProducerWrite be data) (.write (c + commandProducerPlace) be data) ∧
    waits (.reportConsumerWrite be data) (.write (c + reportConsumerPlace) be data) ∧
    waits (.callLogConsumerWrite be data) (.write (c + logConsumerPlace) be data) ∧
    waits (.guardKick be data) (.write (c + guardPlace) be data) ∧
    (∀ (desk : Fin 32) (spent : Bool), s.charge.locked = false →
      waits (.deskFieldWrite desk spent be data) (.write (c + deskRecordPlace desk.val + spent.toNat) be data)) ∧
    waits .clockWord0Read (.read (c + clockPlace) 0b1111#4) ∧
    waits .clockWord3Read (.read (c + clockPlace + 3) 0b1111#4) ∧
    ∀ (r : Regions) (word : BitVec 10), s.path.regions = some r →
      ((640 ≤ word.toNat ∨ ∃ k, s.coder.slotIs (word.toNat / 80) (.free k)) →
        waits (.captureWindowWrite word be data) (.write (r.captureBase / 4 + word.toNat) be data)) ∧
      (640 ≤ word.toNat ∨ s.render.width / 8 < 4 * (word.toNat % 80 + 1) ∨
          (∀ k lost, ¬ s.render.slotIs (word.toNat / 80) (.empty k lost)) →
        waits (.renderSlotRead word be) (.read (r.renderBase / 4 + word.toNat) be))

/-- R179: an engine that has waited 2 µs or more goes ahead of the bus, the longest wait first, and the fixed
order coder, decoder, session A, session B, poster decides between equal waits; the bus goes ahead of
engines that have waited less. -/
def Sys2Proof.Claim.GrantOrder : Prop :=
  ∀ (r : Requests) (now : Nat),
    (r.engines = [] → r.grant now = r.bus.map fun _ => Requester.bus) ∧
    ∀ (before after : List (Requester × Nat)) (e : Requester) (since : Nat), r.engines = before ++ (e, since) :: after →
      (∀ p ∈ before, since < p.2) → (∀ p ∈ after, since ≤ p.2) →
      r.grant now = if since + 20 ≤ now ∨ r.bus = none then some e else some .bus

/-- R178, R179: ARBITER_GRANT makes one access of the requester granted, and its request leaves the arbiter: the first
bytes of an engine's writes reach DRAM and leave its list, or, with none to write, the coder reads the first bytes of a slot
line, the decoder those of the page's code, a session engine those of a DATA frame; the
poster's head item stands at the port; the bus word that waits at the port is made, as its row makes it at a free port.
While the item stands there, or an access of the bus is under way, no other access is made. An access takes consecutive bytes
in at most 8 words. A grant to
another requester than R179 picks cannot happen, and its row changes nothing (log 6). What one access of a requester is, and
how long the item of the poster and an access of the bus keep the port, are the model's choices (log 13); so is that the
word at the port is decided at the grant, as its row would then decide it (log 38). -/
def Sys2Proof.Claim.ArbiterGrant : Prop :=
  ∀ (e : Requester) (s : State), s.path.stalled = [] →
    let r := s.path.requests
    let ws := firstAccess s.coder.writes
    let rs := firstAccess s.render.writes
    let fresh (q : Option Nat) : Prop := ∀ since, q = some since → since = s.clock.now
    let session (t : State) (l : Line) : Prop :=
      let x := s.session l
      let xs := firstAccess x.writes
      t.mem = Memory.writeBytes s.mem xs ∧
        (s.setSession l { x with
          writes := x.writes.drop xs.length
          reads := if x.writes = [] then x.reads.drop (accessLength x.reads) else x.reads }).Alike t
    ∃ t, exec (.arbiterGrant e) s = .next t ∧
      (s.path.headHanded = true ∨ s.openRun ≠ none ∨ r.grant s.clock.now ≠ some e → s.untouched t) ∧
      (s.path.headHanded = false → s.openRun = none → r.grant s.clock.now = some e →
        (e = .poster → s.untouched t ∧ t.path.headHanded = !s.path.postings.isEmpty ∧
          t.path.requests.poster = none) ∧
        (e = .coder → s.samePostings t ∧ t.mem = Memory.writeBytes s.mem ws ∧
          fresh t.path.requests.coder ∧
          ({ s with coder := { s.coder with
              writes := s.coder.writes.drop ws.length
              got := if s.coder.writes = [] then s.coder.got + accessLength s.lineAhead else s.coder.got } } : State).Alike t) ∧
        (e = .decoder → s.samePostings t ∧ t.mem = Memory.writeBytes s.mem rs ∧
          fresh t.path.requests.decoder ∧
          ({ s with render := { s.render with
              writes := s.render.writes.drop rs.length
              got := if s.render.writes = [] then s.render.got + accessLength s.codeAhead else s.render.got } } : State).Alike t) ∧
        (e = .sessionA →
          s.samePostings t ∧ fresh t.path.requests.sessionA ∧ session t .A) ∧
        (e = .sessionB →
          s.samePostings t ∧ fresh t.path.requests.sessionB ∧ session t .B) ∧
        (e = .bus → s.path.held = none →
          let s' : State := { s with path := { s.path with atPort := none, requests := { r with bus := none } } }
          (s.path.atPort = none → s'.untouched t) ∧
          (∀ (addr : BitVec 24) be data, s.path.atPort = some (.write (addr.toNat / 4) be data) →
            s'.fits (.hostWrite addr be data) → exec (.hostWrite addr be data) s' = .next t) ∧
          (∀ (rg : Regions) (word : BitVec 10) be, s.path.regions = some rg →
            s.path.atPort = some (.read (rg.renderBase / 4 + word.toNat) be) → s'.fits (.renderSlotRead word be) →
            exec (.renderSlotRead word be) s' = .next t) ∧
          (s.path.atPort = some (.read (s.path.straps.controlBase + clockPlace) 0b1111#4) →
            exec .clockWord0Read s' = .next t) ∧
          (s.path.atPort = some (.read (s.path.straps.controlBase + clockPlace + 3) 0b1111#4) →
            exec .clockWord3Read s' = .next t)))

/-- R178: a grant of the bus makes the word at the port and, in the same access, those behind it that go on with its run,
up to 8 (here words of plain DRAM): the run asks for the port once. Which words stand behind it is log 14. -/
def Sys2Proof.Claim.BusRun : Prop :=
  ∀ (s : State) (w : Nat) (run : List (BitVec 4 × Word)), run ≠ [] → run.length ≤ 8 →
    s.path.atPort.toList ++ s.path.stalled = run.zipIdx.map (fun o => BusOp.write (w + o.2) o.1.1 o.1.2) →
    s.path.atPort ≠ none → s.path.held = none → (∀ o ∈ run, o.1 ≠ 0) → (∀ i, i < run.length → s.path.areaOf (w + i) = .plain) →
    s.path.headHanded = false → s.openRun = none → s.path.requests.grant s.clock.now = some .bus →
    ∃ t, exec (.arbiterGrant .bus) s = .next t ∧ t.path.requests.bus = none ∧
      t.mem = run.zipIdx.foldl (fun m o => Memory.writeMasked m (w + o.2) o.1.1 o.1.2) s.mem ∧
      s.samePostings t ∧
      t.path.run = run.getLast?.map (fun o => ⟨.write (w + run.length - 1) o.1 o.2, 8 - run.length, s.clock.now⟩) ∧
      ({ s with path := { s.path with atPort := none, stalled := [] } } : State).Alike t

/-- R178, R179: a word of plain DRAM that passes at a free port opens an access of the bus, which takes the words that go on
with its run, 8 in all; while it is under way the port is granted to nobody. That it is under way until the main clock moves
on, or a word comes that does not go on with the run, is the model's choice (log 13). -/
def Sys2Proof.Claim.BusAccessLasts : Prop :=
  ∀ (addr : BitVec 24) (be : BitVec 4) (data : Word) (s : State), be ≠ 0 → s.path.areaOf (addr.toNat / 4) = .plain →
    s.path.held = none → s.path.stalled = [] → s.portFree →
    let op := BusOp.write (addr.toNat / 4) be data
    ∃ t, exec (.hostWrite addr be data) s = .next t ∧
      (s.openRun = none → t.path.run = some ⟨op, 7, s.clock.now⟩) ∧
      (∀ w b d n, s.openRun = some ⟨.write w b d, n + 1, s.clock.now⟩ →
        t.path.run = some ⟨op, if addr.toNat / 4 = w + 1 then n else 7, s.clock.now⟩) ∧
      ∀ e t', t.openRun ≠ none → exec (.arbiterGrant e) t = .next t' → t.untouched t'

/-- R178: one access of an engine takes at least one and at most 32 consecutive bytes, in at most 8 consecutive words. -/
def Sys2Proof.Claim.AccessBounded : Prop :=
  ∀ (a : Nat) (rest : List Nat),
    let n := accessLength (a :: rest)
    1 ≤ n ∧ n ≤ (a :: rest).length ∧ ∀ i, i < n → (a :: rest)[i]? = some (a + i) ∧ (a + i) / 4 < a / 4 + 8

/-! ## Chapter 2: the capture coder -/

/-- R29: the tests in their order, and the page and the context that a DONE makes. -/
def Sys2Proof.Claim.OpenCapture : Prop :=
  ∀ (tag : Tag) (purpose job width : Word) (s : State), s.takes →
    let bad := ¬ (1024 ≤ width.toNat ∧ width.toNat ≤ 2560 ∧ width.toNat % 64 = 0) ∨ 2 < purpose.toNat
    let jobTest : Option CommandRefusal :=
      if purpose = 0 then
        match s.job job.toNat with
        | none => some .noSuch
        | some x => if x.state ≠ .assembling then some .state else if 64 ≤ x.pageList.length then some .full else none
      else none
    let q : Purpose := if purpose = 0 then .send else if purpose = 1 then .copy else .store
    let j := if purpose = 0 then job.toNat else 0
    s.fits (.openCapture tag purpose job width) → ∃ t, exec (.openCapture tag purpose job width) s = .next t ∧
      if s.coder.state ≠ .idle then s.refusedWith t tag .state
      else if s.path.regions = none then s.refusedWith t tag .noStore
      else if bad then s.refusedWith t tag .badArgument
      else
        match jobTest, s.store.pages.lowestFree with
        | some r, _ => s.refusedWith t tag r
        | none, none => s.refusedWith t tag .full
        | none, some n =>
          ({ s.commandDone with
              store := { s.store with pages := s.store.pages.put n (some (Page.filling .scan q j width.toNat)) }
              coder := { Coder.powerOn with
                state := .opened, page := n, purpose := some q, job := j, width := some width.toNat,
                reference := List.replicate width.toNat false } } : State).moves t (s.commandPlaces ++ span (pagePlace n) 16) ∧
            t.showsAt (pagePlace n) (pageWords (some (Page.filling .scan q j width.toNat))) ∧
            s.answered t tag (.done (BitVec.ofNat 32 n))

/-- R10: a new record takes the lowest FREE number; the table is full when none of the 255 is FREE. -/
def Sys2Proof.Claim.LowestFreeRecord : Prop :=
  ∀ (s : State), (∀ n, s.store.pages.lowestFree = some n ↔
      (1 ≤ n ∧ n ≤ 255 ∧ s.page n = none ∧ ∀ m, 1 ≤ m → m < n → s.page m ≠ none)) ∧
    (s.store.pages.lowestFree = none ↔ ∀ n, 1 ≤ n → n ≤ 255 → s.page n ≠ none)

/-- R33, R34, R35, R39: CLOSE_CAPTURE is refused STATE in IDLE, ends with 0 in FULL, and in OPEN stays in progress with
the coder closing. Where nothing is left but END, END has its turn in this event: the slots PENDING beyond the gap are freed,
and for a page with a line END is coded with zero bits to the end of its byte, or waits for a block (log 20). The model's
choices: the taking of the command posts nothing of its own (log 36), and in IDLE the line numbers of the slots (log 20) and
the other fields of the context that the rules do not give (log 43). -/
def Sys2Proof.Claim.CloseCaptureTaken : Prop :=
  ∀ (tag : Tag) (s : State), s.takes → s.path.held = none → s.path.stalled = [] →
    let c := s.coder
    let closes : Coder := { c with closing := true }
    s.fits (.closeCapture tag) → ∃ t, exec (.closeCapture tag) s = .next t ∧
      match c.state with
      | .idle => s.refusedWith t tag .state
      | .full =>
        ({ s.commandDone with coder := Coder.powerOn } : State).moves t s.commandPlaces ∧ s.answered t tag (.done 0)
      | .opened => ∀ p, s.page c.page = some p → ∃ q, s.endTurned closes p (t.coder, q) ∧
          (let v : State := { s with
              store := { s.store with pages := s.store.pages.put c.page (some q) }
              coder := t.coder
              command := { s.command.given with inProgress := some ⟨2, tag⟩ } }
           (t.coder.endCoded = c.endCoded → v.moves t []) ∧
           (t.coder.endCoded ≠ c.endCoded →
             v.moves t (span (pagePlace c.page) 16) ∧ t.showsAt (pagePlace c.page) (pageWords (some q)) ∧
             (8 * p.codeBytes + c.tail.length = c.codeBits → q.codeBytes = (c.codeBits + 3 + 7) / 8 ∧ t.coder.tail = [])))

/-- R35: ABORT_CAPTURE in OPEN frees the FILLING page, in FULL only ends the context; a held capture write is
released and passes at a free port. A word held here meets its hold condition, an invariant (`PathInOrder`). That code bytes
which have not yet reached DRAM are dropped with the page is the model's choice (log 41), and so are, in IDLE, the line
numbers of the slots (log 20) and the other fields of the context that the rules do not give (log 43). -/
def Sys2Proof.Claim.AbortCapture : Prop :=
  ∀ (tag : Tag) (s : State), s.takes → s.path.stalled = [] → s.heldMeets →
    s.fits (.abortCapture tag) → ∃ t, exec (.abortCapture tag) s = .next t ∧
      (s.coder.state = .idle → s.refusedWith t tag .state) ∧
      (s.coder.state ≠ .idle → t.coder = Coder.powerOn ∧ s.answered t tag (.done 0) ∧
        ∀ w be data since slot word, s.path.held = some ⟨.write w be data, since⟩ → s.path.areaOf w = .captureSlot slot word →
          be ≠ 0 → lastPosted w s.path.items = none → s.portFree →
          t.path.held = none ∧ Memory.readWord t.mem w = Memory.readWord (Memory.writeMasked s.mem w be data) w) ∧
      (s.coder.state = .full → t.store = s.store ∧
        (s.path.held = none → ({ s.commandDone with coder := Coder.powerOn } : State).moves t s.commandPlaces)) ∧
      (s.coder.state = .opened → ∀ p, s.page s.coder.page = some p →
        t.page s.coder.page = none ∧ t.store.free = s.store.free ++ p.chain ∧
          (s.path.held = none →
            ({ s.commandDone with
                store := { s.store with free := s.store.free ++ p.chain, pages := s.store.pages.put s.coder.page none }
                coder := Coder.powerOn } : State).moves t
              (s.commandPlaces ++ span (pagePlace s.coder.page) 16 ++ [statusPlace + 3])))

/-- R33, R34, R12, R20: the closing coder that has reached its gap, with END coded and its code in DRAM, makes the page
COMPLETE, places it by its purpose, reports PAGE_COMPLETED, and ends CLOSE_CAPTURE with the record number; a page without a
line is freed and the command ends with 0. A coder that has not come so far goes on (log 6). That END is coded before this row,
and, in IDLE, the line numbers of the slots (log 20) and the other fields of the context that the rules do not give (log 43)
are the model's choice. A page that joins an empty queue in RUN starts in this event (R49), with the render record posted. -/
def Sys2Proof.Claim.CloseCaptureComplete : Prop :=
  ∀ (s : State) (p : Page) (tag : Tag), Memory.wf s.mem = true → s.path.held = none → s.path.stalled = [] →
    s.page s.coder.page = some p → s.command.inProgress = some ⟨2, tag⟩ → s.coder.state = .opened →
    let n := s.coder.page
    let c := s.coder
    let written := c.endCoded = true ∧ c.writes = []
    let ended (pages : PageTable) (free : List Nat) : State := { s with
      store := { s.store with free := free, pages := pages }, coder := Coder.powerOn
      command := { s.command with consumer := s.command.consumer + 1, inProgress := none } }
    let places := span (pagePlace n) 16 ++ s.commandPlaces
    (¬ c.endsNow ∨ (0 < p.lineCount ∧ ¬ written) → ∃ t, exec .closeCaptureComplete s = .next t ∧ s.untouched t) ∧
    (c.endsNow → p.lineCount = 0 → s.fits .closeCaptureComplete →
     ∃ t, exec .closeCaptureComplete s = .next t ∧ s.answered t tag (.done 0) ∧
      t.showsAt (pagePlace n) (pageWords none) ∧
      (ended (s.store.pages.put n none) (s.store.free ++ p.chain)).moves t (places ++ [statusPlace + 3])) ∧
    (c.endsNow → 0 < p.lineCount → written → s.fits .closeCaptureComplete →
     ∃ t q, exec .closeCaptureComplete s = .next t ∧ t.page n = some q ∧
      q = { p with
        complete := true, completion := some s.clock.calendar,
        sendHold := q.sendHold, printHold := q.printHold, keepHold := q.keepHold } ∧
      s.answered t tag (.done (BitVec.ofNat 32 n)) ∧ t.showsAt (pagePlace n) (pageWords (some q)) ∧
      let u := ended (s.store.pages.put n (some q)) s.store.free
      let rep : Report :=
        { kind := .pageCompleted, page := n, job := p.job, value1 := some p.lineCount, value2 := some p.codeBytes }
      let full : Report :=
        { kind := .printQueueFull, page := n, job := p.job, value1 := some s.render.queue.length }
      (p.purpose = .store → q.keepHold = true ∧ q.sendHold = p.sendHold ∧ q.printHold = p.printHold ∧ s.reportShown t rep ∧
        (u.reported rep).moves t (places ++ s.reportPlaces rep)) ∧
      (∀ x, p.purpose = .send → s.job p.job = some x →
        let y : Job := { x with pageList := x.pageList ++ [n] }
        q.sendHold = true ∧ q.printHold = p.printHold ∧ q.keepHold = p.keepHold ∧ s.reportShown t rep ∧
          t.showsAt (jobHeaderPlace p.job) (jobWords (some y)) ∧
          ((u.withJobRecord p.job (some y)).reported rep).moves t (places ++ jobPlaces p.job ++ s.reportPlaces rep)) ∧
      (p.purpose = .copy → s.render.queue.length < 64 → s.render.rendering = true ∨ s.render.mode = .hold →
        q.printHold = true ∧ q.sendHold = p.sendHold ∧ q.keepHold = p.keepHold ∧ s.reportShown t rep ∧
          t.settledAt (statusPlace + 4) = statusRender t.render ∧
          (({ u with render := { s.render with queue := s.render.queue ++ [n] } } : State).reported rep).moves t
            (places ++ [statusPlace + 4] ++ s.reportPlaces rep)) ∧
      (p.purpose = .copy → s.render.rendering = false → s.render.mode = .run → s.render.queue = [] →
        q.printHold = true ∧ q.sendHold = p.sendHold ∧ q.keepHold = p.keepHold ∧ s.reportShown t rep ∧
          t.settledAt (statusPlace + 4) = statusRender t.render ∧
          (({ u with render := ({ s.render with queue := [n] } : Render).started n q } : State).reported rep).moves t
            (places ++ [statusPlace + 4] ++ s.reportPlaces rep)) ∧
      (p.purpose = .copy → 64 ≤ s.render.queue.length →
        q.keepHold = true ∧ q.sendHold = p.sendHold ∧ q.printHold = p.printHold ∧ s.reportStands t full ∧
          (s.reported full).reportShown t rep ∧
          ((u.reported full).reported rep).moves t
            (places ++ s.reportPlaces full ++ (s.reported full).reportPlaces rep)))

/-- R23, R24, R25, R28, R32: a host write of a capture slot word: held while the slot is PENDING, and else it
passes (here at a free port; `BusWaits` says when it waits); the word of the last byte of the line completes it. -/
def Sys2Proof.Claim.CaptureWindowWrite : Prop :=
  ∀ (word : BitVec 10) (be : BitVec 4) (data : Word) (s : State) (r : Regions), Memory.wf s.mem = true →
    s.path.regions = some r → s.regionsSound → 1 ≤ s.path.straps.dramMiB → be ≠ 0 → s.path.held = none → s.portFree →
    let c := s.coder
    let i := word.toNat / 80
    let at_ := r.captureBase / 4 + word.toNat
    let mem := Memory.writeMasked s.mem at_ be data
    let completes := c.width = some (32 * (word.toNat % 80 + 1))
    ∃ t, exec (.captureWindowWrite word be data) s = .next t ∧
      (640 ≤ word.toNat → s.passesOnly t at_ be data) ∧
      (word.toNat < 640 →
        (∀ k, c.slotIs i (.pending k) →
          ({ s with path := { s.path with held := some ⟨.write at_ be data, s.clock.now⟩ } } : State).untouched t) ∧
        (∀ k, c.slotIs i (.free k) →
          (¬ completes ∨ c.state = .idle ∨ (c.state = .opened ∧ c.closing = true) → s.passesOnly t at_ be data) ∧
          (completes → c.state = .opened → c.closing = false → k ≤ 8190 →
            t.mem = mem ∧ t.coder.slotIs i (.pending k) ∧ c.otherSlots t.coder i ∧
              ({ s with coder := { c with slots := t.coder.slots } } : State).Alike t) ∧
          (completes → c.state = .full →
            t.mem = mem ∧ t.coder.slotIs i (.free (k + 8)) ∧ c.otherSlots t.coder i ∧
              ({ s with coder := { c with slots := t.coder.slots } } : State).Alike t) ∧
          (completes → c.state = .opened → c.closing = false → 8191 ≤ k → s.fits (.captureWindowWrite word be data) →
            ∀ p, s.page c.page = some p →
            t.coder.slotIs i (.free (k + 8)) ∧ c.otherSlots t.coder i ∧
              ({ s with
                  mem := mem
                  coder := { c with slots := t.coder.slots }
                  store := { s.store with pages := s.store.pages.put c.page (some { p with long := true }) } } : State).moves t
                (span (pagePlace c.page) 16))))

/-- R26: the hold limit runs out on a capture write: the write passes at a free port and is observed, and waits at a busy
one; line `k` is lost, and the first loss of a page is reported. -/
def Sys2Proof.Claim.CaptureHoldExpiry : Prop :=
  ∀ (s : State) (w : Nat) (be : BitVec 4) (data : Word) (since slot word width k : Nat) (p : Page), Memory.wf s.mem = true →
    s.path.held = some ⟨.write w be data, since⟩ → s.path.atPort = none → s.path.stalled = [] → be ≠ 0 →
    s.path.areaOf w = .captureSlot slot word → s.coder.slotIs slot (.pending k) → s.coder.state = .opened →
    s.coder.width = some width → s.page s.coder.page = some p →
    let c := s.coder
    let now := max s.clock.now (since + s.path.holdLimit * 10)
    let counts := 32 * (word + 1) = width ∧ c.closing = false
    let rep : Report := { kind := .captureLostLine, page := c.page, job := c.job, value1 := some k }
    let op := BusOp.write w be data
    let places := span (pagePlace c.page) 16
    let lost (t u : State) (q : Page) : Prop :=
      let v : State := { u with
        coder := { c with slots := t.coder.slots, lost := t.coder.lost, lostReported := true }
        clock := { s.clock with now := now }
        store := { s.store with pages := s.store.pages.put c.page (some q) } }
      (∀ n, n ∈ t.coder.lost ↔ n = k ∨ n ∈ c.lost) ∧ t.showsAt (pagePlace c.page) (pageWords (some q)) ∧
        (if c.lostReported then v.moves t places else (v.reported rep).moves t (places ++ s.reportPlaces rep))
    s.fits .captureHoldExpiry → ∃ t, exec .captureHoldExpiry s = .next t ∧ c.otherSlots t.coder slot ∧
      (s.portFreeAt now →
        t.coder.slotIs slot
          (if counts then (if k + 8 ≤ 8190 then .pending (k + 8) else .free (k + 16)) else .free (k + 8)) ∧
        lost t { s with mem := Memory.writeMasked s.mem w be data, path := { s.path with held := none } }
          { p with lostLines := p.lostLines + 1, long := p.long || (decide counts && decide (8190 < k + 8)) }) ∧
      (s.portBusyAt now →
        t.coder.slotIs slot (.free (k + 8)) ∧
        lost t { s with path := { s.path with held := none, atPort := some op } } { p with lostLines := p.lostLines + 1 })

/-- R27: the next line is coded from its PENDING slot, once the coder has read it, or as REPEAT when it is lost; its code
goes on its way to the page's chain and the page counts it; when neither holds the coder waits. A token that does not fit
the page's blocks waits whole for an allocation; and where the turn of END comes with the line, END is coded in this event
(R33, log 20). -/
def Sys2Proof.Claim.LineTake : Prop :=
  ∀ (s : State) (p : Page) (w : Nat), Memory.wf s.mem = true → s.path.held = none → s.path.stalled = [] →
    s.coder.state = .opened → s.coder.asked = none → s.page s.coder.page = some p → s.coder.width = some w →
    let c := s.coder
    let n := c.nextLine
    let line := s.slotLine n w
    let token := if n ∈ c.lost then [false, true] else lineToken c.reference line
    let coded := if n ∈ c.lost then c.reference else line
    let waits := n ∉ c.lost ∧ ¬ (c.slotIs n (.pending n) ∧ w / 8 ≤ c.got)
    let fits := c.codeBits + token.length ≤ 16384 * p.chain.length
    let taken : Coder :=
      if n ∈ c.lost then { c with lost := c.lost.filter (· ≠ n), got := 0 }
      else { c with slots := c.slots.setIfInBounds (n % 8) (.free (n + 8)), got := 0 }
    let d := s.codedTo taken p ⟨token, some coded⟩
    s.fits .lineTake → ∃ t, exec .lineTake s = .next t ∧
      (waits → s.untouched t) ∧
      (¬ waits → ∃ q, s.endTurned d.1 d.2 (t.coder, q) ∧
        (fits →
          ({ s with coder := t.coder, store := { s.store with pages := s.store.pages.put c.page (some q) } } : State).moves t
              (span (pagePlace c.page) 16) ∧
            t.showsAt (pagePlace c.page) (pageWords (some q))) ∧
        (¬ fits → ({ s with coder := t.coder } : State).untouched t))

/-- R25, R27: the coder's take of a PENDING line, read whole, releases a write held in its slot, which reaches DRAM at a
free port. -/
def Sys2Proof.Claim.TakeReleasesHeldWrite : Prop :=
  ∀ (s : State) (w : Nat) (be : BitVec 4) (data : Word) (since word : Nat), Memory.wf s.mem = true → s.path.stalled = [] →
    s.path.held = some ⟨.write w be data, since⟩ → be ≠ 0 → s.path.areaOf w = .captureSlot (s.coder.nextLine % 8) word →
    s.coder.state = .opened → s.coder.asked = none → s.coder.nextLine ∉ s.coder.lost →
    s.coder.slotIs s.coder.nextLine (.pending s.coder.nextLine) → s.coder.width.getD 0 / 8 ≤ s.coder.got →
    lastPosted w s.path.items = none → s.portFree →
    s.fits .lineTake → ∃ t, exec .lineTake s = .next t ∧ t.path.held = none ∧
      Memory.readWord t.mem w = Memory.readWord (Memory.writeMasked s.mem w be data) w

/-! ## Chapter 3: rendering and the print queue -/

/-- R45, R49: the page joins the tail with its print hold; into an empty queue in RUN it starts rendering. -/
def Sys2Proof.Claim.PrintPage : Prop :=
  ∀ (tag : Tag) (page : Word) (s : State), s.takes →
    let n := page.toNat
    s.fits (.printPage tag page) → ∃ t, exec (.printPage tag page) s = .next t ∧
      match s.completePage n with
      | none => s.refusedWith t tag .noSuch
      | some p =>
        if n ∈ s.render.queue then s.refusedWith t tag .state
        else if 64 ≤ s.render.queue.length then s.refusedWith t tag .full
        else
          s.answered t tag (.done (BitVec.ofNat 32 (s.render.queue.length + 1))) ∧
          let joined : State := { s.commandDone.setPage n (some { p with printHold := true }) with
            render := { s.render with queue := s.render.queue ++ [n] } }
          let places := s.commandPlaces ++ span (pagePlace n) 16 ++ [statusPlace + 4]
          (s.render.rendering = true ∨ s.render.mode = .hold →
            joined.moves t places ∧ t.showsAt (pagePlace n) (pageWords (some { p with printHold := true })) ∧
              t.settledAt (statusPlace + 4) = statusRender t.render) ∧
          (s.render.rendering = false → s.render.mode = .run → s.render.queue = [] → 0 < p.lineCount →
            ({ joined with render := joined.render.started n p } : State).moves t places ∧
              t.settledAt (statusPlace + 4) = statusRender t.render)

/-- R58, R46: a page of line count 0 is printed in the event that starts it: it leaves the queue at once with
PAGE_PRINTED, values 0 and 0, and is freed when no other hold keeps it. It is DAMAGED when it has no code byte; whether it is
when it has some is not said here. What the other fields of the context hold in IDLE is the model's choice (log 37). -/
def Sys2Proof.Claim.EmptyPagePrinted : Prop :=
  ∀ (tag : Tag) (page : Word) (s : State) (p : Page), s.takes → s.completePage page.toNat = some p → p.lineCount = 0 →
    s.render.rendering = false → s.render.mode = .run → s.render.queue = [] →
    let n := page.toNat
    let rep : Report := { kind := .pagePrinted, page := n, job := p.job, value1 := some 0, value2 := some 0 }
    s.fits (.printPage tag page) →
    ∃ t, exec (.printPage tag page) s = .next t ∧ s.answered t tag (.done 1) ∧ t.render = s.render.idled ∧
      t.report = (s.reported rep).report ∧
      (p.sendHold = false → p.keepHold = false → t.page n = none ∧ t.store.free = s.store.free ++ p.chain) ∧
      (p.sendHold = true ∨ p.keepHold = true → ∃ q, t.page n = some q ∧ t.store.free = s.store.free ∧
        q = { p with printHold := false, damaged := q.damaged } ∧ (p.codeBytes = 0 → q.damaged = true)) ∧
      ({ s.commandDone with store := t.store, render := t.render, report := t.report } : State).moves t
        (s.commandPlaces ++ span (pagePlace n) 16 ++ [statusPlace + 3, statusPlace + 4] ++ s.reportPlaces rep)

/-- R57, R46: END_PRINT takes the head page out of the queue, clears its print hold, hands PRINT_ENDED to the
report unit, ends a held read with zero, and in RUN starts the next page. What the other fields of the context hold in IDLE
is the model's choice (log 37). -/
def Sys2Proof.Claim.EndPrint : Prop :=
  ∀ (tag : Tag) (s : State), s.takes → s.path.stalled = [] →
    s.fits (.endPrint tag) → ∃ t, exec (.endPrint tag) s = .next t ∧
      (s.render.rendering = false → s.refusedWith t tag .state) ∧
      (s.render.rendering = true → ∀ n rest p, s.render.queue = n :: rest → s.render.page = n → s.page n = some p →
        let rep : Report :=
          { kind := .printEnded, page := n, job := p.job, value1 := some s.render.linesEnded, value2 := some s.render.lineCount }
        let q : Page := { p with printHold := false }
        s.answered t tag (.done 0) ∧ t.render.queue.length ≤ rest.length ∧
        (∀ w be since, s.path.held = some ⟨.read w be, since⟩ →
          t.path.held = none ∧ t.path.readData = mergeBytes s.path.readData be 0) ∧
        (s.render.mode = .hold ∨ rest = [] →
          t.render = { s.render.idled with queue := rest } ∧ t.page n = q.kept ∧ t.store.free = s.freedInto q ∧
          t.settledAt (statusPlace + 4) = statusRender t.render ∧ t.report = (s.reported rep).report ∧
          (s.path.held = none →
            ({ s.commandDone with store := t.store, render := t.render, report := t.report } : State).moves t
              (s.commandPlaces ++ span (pagePlace n) 16 ++ [statusPlace + 3, statusPlace + 4] ++ s.reportPlaces rep))) ∧
        (∀ m more pm, s.render.mode = .run → rest = m :: more → m ≠ n → s.page m = some pm → 0 < pm.lineCount →
          t.render = ({ s.render.idled with queue := rest } : Render).started m pm ∧ t.page n = q.kept ∧
            t.report = (s.reported rep).report))

/-- R47, R49: the print mode; RUN starts the head page when one waits. -/
def Sys2Proof.Claim.SetPrintMode : Prop :=
  ∀ (tag : Tag) (mode : Word) (s : State), s.takes →
    s.fits (.setPrintMode tag mode) → ∃ t, exec (.setPrintMode tag mode) s = .next t ∧
      (1 < mode.toNat → s.refusedWith t tag .badArgument) ∧
      (mode.toNat ≤ 1 → s.answered t tag (.done 0) ∧
        let m : PrintMode := if mode.toNat = 0 then .run else .hold
        let places := s.commandPlaces ++ [statusPlace + 4]
        (m = .hold ∨ s.render.rendering = true ∨ s.render.queue = [] →
          ({ s.commandDone with render := { s.render with mode := m } } : State).moves t places) ∧
        (m ≠ s.render.mode → t.settledAt (statusPlace + 4) = statusRender t.render) ∧
        (∀ n rest p, m = .run → s.render.mode = .hold → s.render.rendering = false → s.render.queue = n :: rest →
          s.page n = some p → 0 < p.lineCount →
          ({ s.commandDone with render := ({ s.render with mode := .run } : Render).started n p } : State).moves t places))

/-- R48: the tests in their order, and the new width in the status record. -/
def Sys2Proof.Claim.SetRenderWidth : Prop :=
  ∀ (tag : Tag) (width : Word) (s : State), s.takes →
    s.fits (.setRenderWidth tag width) → ∃ t, exec (.setRenderWidth tag width) s = .next t ∧
      if s.render.rendering then s.refusedWith t tag .state
      else if ¬ (1024 ≤ width.toNat ∧ width.toNat ≤ 2560 ∧ width.toNat % 64 = 0) then s.refusedWith t tag .badArgument
      else
        ({ s.commandDone with render := { s.render with width := width.toNat } } : State).moves t
            (s.commandPlaces ++ [statusPlace + 4]) ∧
          t.settledAt (statusPlace + 4) = statusRender t.render ∧ s.answered t tag (.done width)

/-- R50, R51, R42: the next line is produced once the code it needs has been read: it becomes the reference line, and is
written into its slot, discarded, or kept while its slot is FULL or still awaits an earlier line; damage sets the page's
flag. Once reading has stopped every further line is white, and is placed like the others. While code is left to read the row
changes nothing (logs 6, 13). -/
def Sys2Proof.Claim.RenderLineDecoded : Prop :=
  ∀ (s : State) (p : Page), Memory.wf s.mem = true → s.render.rendering = true → s.render.nextLine < s.render.lineCount →
    s.render.produced = false → s.render.writing = none → s.page s.render.page = some p →
    let r := s.render
    let k := r.nextLine
    let out : ReadLine :=
      if r.stopped then { line := List.replicate p.width false, pos := r.codePos, stopped := true, damaged := true }
      else readLine (s.codeBit p) p.width r.reference r.codePos
    let read : Render := { r with reference := out.line, codePos := out.pos, stopped := out.stopped, got := 0 }
    let damage := out.damaged = true ∨ (k + 1 = r.lineCount ∧ out.stopped = false ∧ readsEnd (s.codeBit p) out.pos = false)
    (s.codeAhead ≠ [] → ∃ t, exec .renderLineDecoded s = .next t ∧ s.untouched t) ∧
    (s.codeAhead = [] → s.fits .renderLineDecoded →
     ∃ t, exec .renderLineDecoded s = .next t ∧ t.render.reference = out.line ∧ t.render.codePos = out.pos ∧
      t.render.stopped = out.stopped ∧ t.render.got = 0 ∧ t.render.slots = r.slots ∧ t.render.queue = r.queue ∧
      t.render.linesEnded = r.linesEnded ∧
      s.placesLine read t.render ∧
      (¬ damage → ({ s with render := t.render } : State).moves t []) ∧
      (damage →
        ({ s with
            render := t.render
            store := { s.store with pages := s.store.pages.put r.page (some { p with damaged := true }) } } : State).moves t
          (span (pagePlace r.page) 16)))

/-- R50, R53: once the last byte of the line being written is in DRAM its slot is FULL with it, and a read held on the slot
is served with DRAM data. While bytes are left to write the row changes nothing (logs 6, 13). -/
def Sys2Proof.Claim.RenderSlotFilled : Prop :=
  ∀ (s : State) (k : Nat), Memory.wf s.mem = true → s.render.writing = some k → s.path.stalled = [] →
    let r := s.render
    let full : Render := { r with writing := none, nextLine := k + 1, slots := r.slots.setIfInBounds (k % 8) (.full k) }
    ∃ t, exec .renderSlotFilled s = .next t ∧
      (r.writes ≠ [] → s.untouched t) ∧
      (r.writes = [] → s.path.held = none →
        t.mem = s.mem ∧ ({ s with render := t.render } : State).Alike t ∧ s.samePostings t ∧
          (r.slotIs k (.empty k false) → t.render = full ∧ t.render.slotIs k (.full k) ∧ r.otherSlots t.render k) ∧
          (¬ r.slotIs k (.empty k false) → t.render = { r with writing := none, nextLine := k + 1 })) ∧
      (∀ w be since word, r.writes = [] → s.path.held = some ⟨.read w be, since⟩ → be ≠ 0 →
        s.path.areaOf w = .renderSlot (k % 8) word → 4 * (word + 1) < r.width / 8 → r.slotIs k (.empty k false) → s.portFree →
        t.path.held = none ∧ t.render = full ∧ t.render.slotIs k (.full k) ∧
          t.path.readData = mergeBytes s.path.readData be (Memory.readWord s.mem w))

/-- R52, R53, R55, R50: a host read of a render slot word, by slot state: DRAM data, zero, or held; the word of the
last byte hands the slot on, and a decoder that waits with a line acts on the slot's new state. The hand-over is said for a
line in the slot of its number modulo 8, as every line is (`SlotLinesStayInPlace`). -/
def Sys2Proof.Claim.RenderSlotRead : Prop :=
  ∀ (word : BitVec 10) (be : BitVec 4) (s : State) (rg : Regions), Memory.wf s.mem = true → s.path.regions = some rg →
    s.regionsSound → 1 ≤ s.path.straps.dramMiB → be ≠ 0 → s.path.held = none → s.portFree →
    let r := s.render
    let i := word.toNat / 80
    let at_ := rg.renderBase / 4 + word.toNat
    let shown := word.toNat < 640 ∧ 4 * (word.toNat % 80 + 1) ≤ r.width / 8
    let last := 4 * (word.toNat % 80 + 1) = r.width / 8
    let dram : State := { s with path := { s.path with readData := mergeBytes s.path.readData be (Memory.readWord s.mem at_) } }
    let zero : State := { s with path := { s.path with readData := mergeBytes s.path.readData be 0 } }
    ∃ t, exec (.renderSlotRead word be) s = .next t ∧
      (¬ shown → dram.untouched t) ∧
      (shown → r.slotIs i .noLine ∨ r.slotIs i .emptyDone → dram.untouched t) ∧
      (∀ j, shown → r.slotIs i (.empty j false) →
        ({ s with path := { s.path with held := some ⟨.read at_ be, s.clock.now⟩ } } : State).untouched t) ∧
      (∀ k, shown → ¬ last → r.slotIs i (.full k) → dram.untouched t) ∧
      (∀ k, shown → ¬ last → r.slotIs i (.empty k true) → zero.untouched t) ∧
      (∀ k, shown → last → k + 1 ≠ r.lineCount → k % 8 = i → r.slotIs i (.full k) ∨ r.slotIs i (.empty k true) →
        let next : RenderSlot := if k + 8 < r.lineCount then .empty (k + 8) false else .emptyDone
        t.render.slotIs i next ∧ r.otherSlots t.render i ∧
          t.render.linesEnded = r.linesEnded + 1 ∧ t.render.queue = r.queue ∧ s.slotEnded r i next t.render ∧
          (r.slotIs i (.full k) → ({ dram with render := t.render } : State).untouched t) ∧
          (r.slotIs i (.empty k true) → ({ zero with render := t.render } : State).untouched t))

/-- R56, R46, R49: the read that hands on the slot of the last line, FULL or marked lost (R55), prints the page: it leaves the
queue with PAGE_PRINTED, its line count and its underrun lines, and its print hold is cleared; a read of the page's code asked
for and not yet made is dropped. In RUN the next page of the queue starts. What the other fields of the context hold in IDLE
is the model's choice (log 37). -/
def Sys2Proof.Claim.PagePrinted : Prop :=
  ∀ (word : BitVec 10) (be : BitVec 4) (s : State) (rg : Regions) (n k : Nat) (rest : List Nat) (p : Page),
    Memory.wf s.mem = true → s.path.regions = some rg → s.regionsSound → 1 ≤ s.path.straps.dramMiB → be ≠ 0 →
    s.path.held = none → s.portFree → word.toNat < 640 → 4 * (word.toNat % 80 + 1) = s.render.width / 8 →
    let full := s.render.slotIs (word.toNat / 80) (.full k)
    let lost := s.render.slotIs (word.toNat / 80) (.empty k true)
    full ∨ lost → k + 1 = s.render.lineCount → s.render.queue = n :: rest → s.render.page = n → s.page n = some p →
    let rep : Report :=
      { kind := .pagePrinted, page := n, job := p.job, value1 := some s.render.lineCount, value2 := some s.render.underrunLines }
    let q : Page := { p with printHold := false }
    let read (v : Word) : State := { s with path := { s.path with readData := mergeBytes s.path.readData be v } }
    let places := span (pagePlace n) 16 ++ [statusPlace + 3, statusPlace + 4] ++ s.reportPlaces rep
    s.fits (.renderSlotRead word be) → ∃ t, exec (.renderSlotRead word be) s = .next t ∧ s.reportStands t rep ∧
      (s.render.mode = .hold ∨ rest = [] →
        (s.render.writes = [] → t.path.requests.decoder = none) ∧
        t.render = { s.render.idled with queue := rest } ∧
        t.page n = q.kept ∧ t.store.free = s.freedInto q ∧ t.settledAt (statusPlace + 4) = statusRender t.render ∧
        (full → (({ read (Memory.readWord s.mem (rg.renderBase / 4 + word.toNat)) with
          store := t.store, render := t.render } : State).reported rep).moves t places) ∧
        (lost → (({ read 0 with store := t.store, render := t.render } : State).reported rep).moves t places)) ∧
      (∀ m more pm, s.render.mode = .run → rest = m :: more → m ≠ n → s.page m = some pm → 0 < pm.lineCount →
        t.render = ({ s.render.idled with queue := rest } : Render).started m pm ∧ t.page n = q.kept ∧
          t.report = (s.reported rep).report)

/-- R54, R52, R50: the hold limit runs out on a held read: it returns zero, the slot is marked lost, or with its last word
handed on, where a decoder that waits with a line acts on the slot's new state; the first underrun of a page is reported. The
last word is said for a line that is not the page's last (that is `RenderHoldExpiryPrints`), in the slot of its number modulo
8 (`SlotLinesStayInPlace`). -/
def Sys2Proof.Claim.RenderHoldExpiry : Prop :=
  ∀ (s : State) (w : Nat) (be : BitVec 4) (since slot word j : Nat), Memory.wf s.mem = true →
    s.path.held = some ⟨.read w be, since⟩ → s.path.stalled = [] → s.path.areaOf w = .renderSlot slot word →
    s.render.slotIs slot (.empty j false) →
    (4 * (word + 1) = s.render.width / 8 → j + 1 ≠ s.render.lineCount ∧ j % 8 = slot % 8) →
    let r := s.render
    let lost : Render := { r with underrunLines := r.underrunLines + 1, underrunReported := true }
    let rep : Report := { kind := .renderUnderrun, page := r.page, job := s.pageJob r.page, value1 := some j }
    let u : State := { s with
      path := { s.path with held := none, readData := mergeBytes s.path.readData be 0 }
      clock := { s.clock with now := max s.clock.now (since + s.path.holdLimit * 10) } }
    s.fits .renderHoldExpiry →
    ∃ t, exec .renderHoldExpiry s = .next t ∧ t.render.underrunLines = r.underrunLines + 1 ∧ t.render.underrunReported = true ∧
      (4 * (word + 1) ≠ r.width / 8 → t.render.slotIs slot (.empty j true) ∧
        t.render = { lost with slots := r.slots.setIfInBounds (slot % 8) (.empty j true) }) ∧
      (4 * (word + 1) = r.width / 8 →
        let next : RenderSlot := if j + 8 < r.lineCount then .empty (j + 8) false else .emptyDone
        t.render.slotIs slot next ∧ t.render.linesEnded = r.linesEnded + 1 ∧ s.slotEnded lost slot next t.render) ∧
      r.otherSlots t.render slot ∧
      let v : State := { u with render := t.render }
      if r.underrunReported then v.moves t [] else (v.reported rep).moves t (s.reportPlaces rep)

/-- R54, R56, R46: the hold limit runs out on a held read of the last word of the page's last line: the read returns zero,
the line is an underrun, and with it the page is printed: it leaves the queue with PAGE_PRINTED, and its print hold is
cleared. That RENDER_UNDERRUN, the first of its page, goes ahead of PAGE_PRINTED and that the count there has this loss are the
model's choices (log 33), and so is what the other fields of the context hold in IDLE (log 37). Said here where no next page
starts. -/
def Sys2Proof.Claim.RenderHoldExpiryPrints : Prop :=
  ∀ (s : State) (w : Nat) (be : BitVec 4) (since slot word j n : Nat) (rest : List Nat) (p : Page), Memory.wf s.mem = true →
    s.path.held = some ⟨.read w be, since⟩ → s.path.stalled = [] → s.path.areaOf w = .renderSlot slot word →
    s.render.slotIs slot (.empty j false) → 4 * (word + 1) = s.render.width / 8 → j + 1 = s.render.lineCount →
    s.render.queue = n :: rest → s.render.page = n → s.page n = some p → s.render.mode = .hold ∨ rest = [] →
    let first := s.render.underrunReported = false
    let underrun : Report := { kind := .renderUnderrun, page := n, job := p.job, value1 := some j }
    let rep : Report :=
      { kind := .pagePrinted, page := n, job := p.job, value1 := some s.render.lineCount,
        value2 := some (s.render.underrunLines + 1) }
    let q : Page := { p with printHold := false }
    let u : State := { s with
      path := { s.path with held := none, readData := mergeBytes s.path.readData be 0 }
      clock := { s.clock with now := max s.clock.now (since + s.path.holdLimit * 10) } }
    let places := span (pagePlace n) 16 ++ [statusPlace + 3, statusPlace + 4]
    s.fits .renderHoldExpiry → ∃ t, exec .renderHoldExpiry s = .next t ∧
      t.render = { s.render.idled with queue := rest } ∧ t.page n = q.kept ∧ t.store.free = s.freedInto q ∧
      t.settledAt (statusPlace + 4) = statusRender t.render ∧
      (¬ first → (({ u with store := t.store, render := t.render } : State).reported rep).moves t
        (places ++ s.reportPlaces rep)) ∧
      (first →
        ((({ u with store := t.store, render := t.render } : State).reported underrun).reported rep).moves t
            (places ++ s.reportPlaces underrun ++ (s.reported underrun).reportPlaces rep) ∧
          s.reportStands t underrun ∧ (s.reported underrun).reportStands t rep)

/-! ## Chapter 4: the telephone lines -/

/-- R62, R63: the three setting commands: their tests, the values they set, and their results. -/
def Sys2Proof.Claim.LineSettingCommands : Prop :=
  ∀ (tag : Tag) (line mode count method blind metered maxStep : Word) (s : State), s.takes →
    let set (l : Line) (x : LineSettings) : State :=
      { s.commandDone with lines := s.lines.set l { s.line l with settings := x } }
    let places (l : Line) := s.commandPlaces ++ [statusPlace + 7 + lineCode l]
    let shows (t : State) (l : Line) (x : LineSettings) := x ≠ (s.line l).settings →
      t.settledAt (statusPlace + 7 + lineCode l) = statusSettings x
    (s.fits (.setLineMode tag line mode) → ∃ t, exec (.setLineMode tag line mode) s = .next t ∧ s.lineTests t tag line ∧
      ∀ l, s.names line l →
        (3 < mode.toNat → s.refusedWith t tag .badArgument) ∧
        (∀ m : LineMode, mode = BitVec.ofNat 32 m.code →
          let x := { (s.line l).settings with mode := m }
          (set l x).moves t (places l) ∧ shows t l x ∧ s.answered t tag (.done 0))) ∧
    (s.fits (.setRings tag line count) → ∃ t, exec (.setRings tag line count) s = .next t ∧ s.lineTests t tag line ∧
      ∀ l, s.names line l →
        let n := max 1 (min count.toNat 9)
        let x := { (s.line l).settings with rings := n }
        (set l x).moves t (places l) ∧ shows t l x ∧ s.answered t tag (.done (BitVec.ofNat 32 n))) ∧
    (s.fits (.setLineOptions tag line method blind metered maxStep) →
     ∃ t, exec (.setLineOptions tag line method blind metered maxStep) s = .next t ∧ s.lineTests t tag line ∧
      ∀ l, s.names line l →
        (1 < method.toNat → s.refusedWith t tag .badArgument) ∧
        (method.toNat ≤ 1 →
          let n := max 1 (min maxStep.toNat 4)
          let x : LineSettings := { (s.line l).settings with
            method := if method = 0 then .tone else .pulse, blind := decide (blind ≠ 0), metered := decide (metered ≠ 0),
            maxStep := n }
          (set l x).moves t (places l) ∧ shows t l x ∧ s.answered t tag (.done (BitVec.ofNat 32 n))))

/-- R79, R105: HANG_UP by call state; a receiving session ends with HUNG_UP. -/
def Sys2Proof.Claim.HangUp : Prop :=
  ∀ (tag : Tag) (line : Word) (s : State), s.takes →
    s.fits (.hangUp tag line) → ∃ t, exec (.hangUp tag line) s = .next t ∧ s.lineTests t tag line ∧
      ∀ l, s.names line l →
        let u := s.line l
        (u.hook = true → s.answered t tag (.done 1) ∧ s.commandDone.callEnded t l .hungUp s.clock.now ∧
          (u.state = .connected → (s.session l).role = .receiver → u.direction = some .incoming →
            s.commandDone.receiverEnded t l .hungUp)) ∧
        (u.state = .ringing → s.answered t tag (.done 0) ∧
          ({ s.commandDone with lines := s.lines.set l { u with
              state := .idle, direction := none, number := none, endCause := none, ringCount := 0, timer := none } } : State).moves
            t (s.commandPlaces ++ [linePlace l]) ∧ t.settledAt (linePlace l) = statusLine (t.line l)) ∧
        (u.state = .idle ∨ u.state = .recovery → s.answered t tag (.done 0) ∧ s.commandDone.moves t s.commandPlaces)

/-- R66, R67, R64, R190: a burst counted in IDLE, RECOVERY and RINGING, with the answering test; an answered one takes the
line off-hook and the guard's count runs; ignored in ANSWERING, PROGRESS and CONNECTED, after the first symbol, and on a
line that is not fitted. The gap runs 8 s from the end of the presence, which began 200 ms before the burst (log 24). -/
def Sys2Proof.Claim.RingBurst : Prop :=
  ∀ (line : Line) (presenceMs : Nat) (s : State), Memory.wf s.mem = true → 200 ≤ presenceMs →
    let u := s.line line
    let counts := u.state = .idle ∨ u.state = .recovery ∨ u.state = .ringing
    let n := if u.state = .ringing then min 255 (u.ringCount + 1) else 1
    let answers := u.settings.rings ≤ n ∧ (u.settings.mode = .answerOnly ∨ u.settings.mode = .both) ∧ s.guard.expired = false
    s.fits (.ringBurst ⟨line, presenceMs⟩) → ∃ t, exec (.ringBurst ⟨line, presenceMs⟩) s = .next t ∧
      (s.fitted line = false → s.untouched t) ∧
      (s.fitted line = true → counts →
        (answers → (t.line line).state = .answering ∧ (t.line line).ringCount = 0 ∧ (t.line line).hook = true ∧
          (t.line line).atone = true ∧ (t.line line).timer = some (s.clock.now + 20000000) ∧
          t.guard = s.guardAfter s.clock.now true) ∧
        (¬ answers → (t.line line).state = .ringing ∧ (t.line line).ringCount = n ∧ (t.line line).hook = false ∧
          (t.line line).timer = some (s.clock.now + (presenceMs - 200) * 10000 + 80000000) ∧ t.guard = s.guard) ∧
        (answers ∨ u.state ≠ .ringing → (t.line line).direction = some .incoming) ∧ (t.line line).settings = u.settings ∧
        (u.state ≠ .ringing → (t.line line).number = none ∧ (t.line line).endCause = none ∧
          t.settledAt (linePlace line) = statusLine (t.line line)) ∧
        ({ s with lines := s.lines.set line (t.line line), guard := t.guard } : State).moves t [linePlace line]) ∧
      (u.state = .answering ∨ u.state = .progress ∨ u.state = .connected ∨ (u.state = .dialling ∧ u.firstEnded = true) →
        s.untouched t)

/-- R80: glare: the outgoing call ends with GLARE, the line rings with a count of 1, its gap from the end of
this presence (log 24), or answers, and the recipient's attempt is given back. -/
def Sys2Proof.Claim.Glare : Prop :=
  ∀ (line : Line) (presenceMs : Nat) (s : State), Memory.wf s.mem = true → 200 ≤ presenceMs → s.fitted line = true →
    (s.line line).state = .seized ∨ ((s.line line).state = .dialling ∧ (s.line line).firstEnded = false) →
    let u := s.line line
    let answers := u.settings.rings ≤ 1 ∧ (u.settings.mode = .answerOnly ∨ u.settings.mode = .both) ∧ s.guard.expired = false
    s.fits (.ringBurst ⟨line, presenceMs⟩) →
    ∃ t, exec (.ringBurst ⟨line, presenceMs⟩) s = .next t ∧ s.outgoingEnded t line .glare s.clock.now ∧ s.callFrame t line s.clock.now ∧
      t.session line = s.session line ∧ (t.line line).direction = some .incoming ∧ (t.line line).number = none ∧
      (t.line line).dtmf = none ∧ (t.line line).dialBreak = false ∧ (t.line line).ctone = false ∧
      (t.line line).state = (if answers then .answering else .ringing) ∧
      (t.line line).ringCount = (if answers then 0 else 1) ∧
      (t.line line).timer = some (s.clock.now + if answers then 20000000 else (presenceMs - 200) * 10000 + 80000000) ∧
      t.settledAt (linePlace line) = statusLine (t.line line) ∧
      ∀ j i x r, s.dispatch.serving.get line = some (j, i) → s.job j = some x → s.recipient j i = some r →
        r.pagesConfirmed ≠ x.pageList.length → r.cancelMark = false →
        ∃ r', t.recipient j i = some r' ∧ r'.state = .waiting ∧ r'.attempts = r.attempts - 1 ∧ r'.nextTry = s.clock.uptime ∧
          r'.lastCause = some .glare

/-- R66, R78: RINGING without a burst for the gap, and RECOVERY after its 2 s, become IDLE; in any other
state these rows change nothing (log 6). -/
def Sys2Proof.Claim.LineBecomesIdle : Prop :=
  ∀ (line : Line) (s : State), Memory.wf s.mem = true →
    let u := s.line line
    let idle : LineUnit := { u with
      state := .idle, direction := none, number := none, endCause := none, ringCount := 0, timer := none }
    (s.fits (.ringGapTimeout line) → ∃ t, exec (.ringGapTimeout line) s = .next t ∧
      (u.state = .ringing → s.lineOnly t line (s.dueAt u.timer) idle) ∧ (u.state ≠ .ringing → s.untouched t)) ∧
    (s.fits (.recoveryEnd line) → ∃ t, exec (.recoveryEnd line) s = .next t ∧
      (u.state = .recovery → s.lineOnly t line (s.dueAt u.timer) idle) ∧ (u.state ≠ .recovery → s.untouched t))

/-- R67, R87: after 2.0 s of ATONE the line is CONNECTED as the receiver and its engine sends IDENT, ready when
8 blocks are free and a page record is FREE. -/
def Sys2Proof.Claim.AnswerToneEnd : Prop :=
  ∀ (line : Line) (s : State), Memory.wf s.mem = true → (s.line line).state = .answering →
    let now := s.dueAt (s.line line).timer
    let ready := decide (8 ≤ s.store.free.length) && s.store.pages.lowestFree.isSome
    s.fits (.answerToneEnd line) →
    ∃ t, exec (.answerToneEnd line) s = .next t ∧ (t.line line).state = .connected ∧ (t.line line).atone = false ∧
      (t.line line).hook = true ∧ (t.session line).role = .receiver ∧ (t.session line).state = .identSent ∧
      (t.session line).idleTimer = some (now + 60000000) ∧
      (t.session line).sending = [.frame (.ident s.stationId (s.line line).settings.maxStep ready) 1] ∧
      t.settledAt (linePlace line) = statusLine (t.line line) ∧
      ({ s with
          lines := s.lines.set line (t.line line), sessions := s.sessions.set line (t.session line)
          clock := { s.clock with now := now } } : State).moves t [linePlace line, statusPlace + 9 + lineCode line]

/-- R69 to R71: dial tone, at the seize or in a W, and the blind delay; the next symbol begins. In other states
these rows change nothing (log 6). -/
def Sys2Proof.Claim.DiallingStarts : Prop :=
  ∀ (line : Line) (s : State), Memory.wf s.mem = true →
    let u := s.line line
    let number := u.number.getD []
    let blind := (u.seizeSettings.map (·.blind)).getD false
    (s.fits (.dialToneRecognised line) → ∃ t, exec (.dialToneRecognised line) s = .next t ∧
      (u.state = .seized → blind = false →
        s.lineOnly t line s.clock.now (({ u with state := .dialling } : LineUnit).begun (number.drop u.nextSymbol) s.clock.now)) ∧
      (u.state = .dialling → u.phase = .waitTone →
        s.lineOnly t line s.clock.now
          (({ u with nextSymbol := u.nextSymbol + 1, firstEnded := true } : LineUnit).begun (number.drop (u.nextSymbol + 1))
            s.clock.now)) ∧
      ((u.state = .seized ∧ blind = true) ∨ (u.state ≠ .seized ∧ ¬ (u.state = .dialling ∧ u.phase = .waitTone)) →
        s.untouched t)) ∧
    (s.fits (.blindDialDelayEnd line) → ∃ t, exec (.blindDialDelayEnd line) s = .next t ∧
      (u.state = .seized → blind = true →
        s.lineOnly t line (s.dueAt u.timer)
          (({ u with state := .dialling } : LineUnit).begun (number.drop u.nextSymbol) (s.dueAt u.timer))) ∧
      (u.state ≠ .seized ∨ blind = false → s.untouched t))

/-- R70, R71: strobe and silence of a DTMF digit, breaks and makes of a pulse digit, the 800 ms make before the
symbol that follows it, pauses; the end of the last symbol enters PROGRESS. That
DIAL_BREAK_END ends the makes too, and that SYMBOL_END may end the last break, are the model's choices (log 19); in
other phases these rows change nothing (log 6). -/
def Sys2Proof.Claim.DiallingGoesOn : Prop :=
  ∀ (line : Line) (s : State), Memory.wf s.mem = true →
    let u := s.line line
    let now := s.dueAt u.timer
    let number := u.number.getD []
    let next : LineUnit := { u with nextSymbol := u.nextSymbol + 1, firstEnded := true }
    let left := number.drop (u.nextSymbol + 1)
    let digitEnded : LineUnit :=
      if left = [] then next.begun [] now else { next with phase := .interDigit, timer := some (now + 8000000) }
    (s.fits (.dtmfStrobeEnd line) → ∃ t, exec (.dtmfStrobeEnd line) s = .next t ∧
      (∀ x, u.phase = .strobe x → s.lineOnly t line now { u with phase := .gap, timer := some (now + 900000) }) ∧
      ((∀ x, u.phase ≠ .strobe x) → s.untouched t)) ∧
    (s.fits (.dialBreakEnd line) → ∃ t, exec (.dialBreakEnd line) s = .next t ∧
      (∀ n, u.phase = .brk (n + 1) → s.lineOnly t line now { u with phase := .mk n, timer := some (now + 400000) }) ∧
      (∀ n, u.phase = .mk n → s.lineOnly t line now { u with phase := .brk n, timer := some (now + 600000) }) ∧
      (u.phase = .brk 0 → s.lineOnly t line now digitEnded) ∧
      ((∀ n, u.phase ≠ .brk n ∧ u.phase ≠ .mk n) → s.untouched t)) ∧
    (s.fits (.symbolEnd line) → ∃ t, exec (.symbolEnd line) s = .next t ∧
      (u.phase = .gap ∨ u.phase = .pause → s.lineOnly t line now (next.begun left now)) ∧
      (u.phase = .brk 0 → s.lineOnly t line now digitEnded) ∧
      (u.phase ≠ .gap → u.phase ≠ .pause → u.phase ≠ .brk 0 → s.untouched t)) ∧
    (s.fits (.interDigitMakeEnd line) → ∃ t, exec (.interDigitMakeEnd line) s = .next t ∧
      (u.phase = .interDigit → s.lineOnly t line now (u.begun (number.drop u.nextSymbol) now)) ∧
      (u.phase ≠ .interDigit → s.untouched t))

/-- R72: calling bursts of 500 ms, 3 s from the start of one to the start of the next, in PROGRESS only; elsewhere
these rows change nothing (log 6). -/
def Sys2Proof.Claim.CallingBursts : Prop :=
  ∀ (line : Line) (s : State), Memory.wf s.mem = true →
    let u := s.line line
    let now := s.dueAt u.ctoneTimer
    (∃ t, exec (.ctoneBurstStart line) s = .next t ∧
      (u.state = .progress → u.ctone = false →
        s.lineOnly t line now { u with ctone := true, ctoneTimer := some (now + 5000000) }) ∧
      (u.state ≠ .progress ∨ u.ctone = true → s.untouched t)) ∧
    (∃ t, exec (.ctoneBurstEnd line) s = .next t ∧
      (u.state = .progress → u.ctone = true →
        s.lineOnly t line now { u with ctone := false, ctoneTimer := some (now + 25000000) }) ∧
      (u.state ≠ .progress ∨ u.ctone = false → s.untouched t))

/-- R73: the class of a tone cycle; the third busy cycle in a row ends the call with BUSY, the tenth ringback
cycle with NO_ANSWER; outside PROGRESS nothing changes (log 6). -/
def Sys2Proof.Claim.ToneCycles : Prop :=
  ∀ (line : Line) (onMs offMs : Nat) (s : State), Memory.wf s.mem = true →
    let u := s.line line
    let busy := 200 ≤ onMs ∧ onMs ≤ 700 ∧ 200 ≤ offMs ∧ offMs ≤ 700
    let ringback := 700 ≤ onMs ∧ onMs ≤ 2500 ∧ 1500 ≤ offMs ∧ offMs ≤ 5000
    s.fits (.toneCycleEnd line onMs offMs) → ∃ t, exec (.toneCycleEnd line onMs offMs) s = .next t ∧
      (u.state ≠ .progress → s.untouched t) ∧
      (u.state = .progress →
        (busy → u.busyRun < 2 → s.lineOnly t line s.clock.now { u with busyRun := u.busyRun + 1 }) ∧
        (busy → 2 ≤ u.busyRun → (s.setLine line { u with busyRun := u.busyRun + 1 }).callEnded t line .busy s.clock.now) ∧
        (ringback → u.ringbacks < 9 →
          s.lineOnly t line s.clock.now { u with busyRun := 0, ringbacks := u.ringbacks + 1 }) ∧
        (ringback → 9 ≤ u.ringbacks →
          (s.setLine line { u with busyRun := 0, ringbacks := u.ringbacks + 1 }).callEnded t line .noAnswer s.clock.now) ∧
        (¬ busy → ¬ ringback → s.lineOnly t line s.clock.now { u with busyRun := 0 }))

/-- R69, R71, R73, R76: the causes of the line itself: no dial tone, 60 s of PROGRESS, a tone that does not stop, a
lost carrier; each only in its state, and elsewhere nothing changes (log 6). -/
def Sys2Proof.Claim.LineEndsCall : Prop :=
  ∀ (line : Line) (s : State), Memory.wf s.mem = true →
    let u := s.line line
    let blind := (u.seizeSettings.map (·.blind)).getD false
    let waits := (u.state = .seized ∧ blind = false) ∨ (u.state = .dialling ∧ u.phase = .waitTone)
    (s.fits (.dialToneTimeout line) → ∃ t, exec (.dialToneTimeout line) s = .next t ∧
      (waits → s.callEnded t line .noDialTone (s.dueAt u.timer)) ∧ (¬ waits → s.untouched t)) ∧
    (s.fits (.progressTimeout line) → ∃ t, exec (.progressTimeout line) s = .next t ∧
      (u.state = .progress → s.callEnded t line .noAnswer (s.dueAt u.timer)) ∧ (u.state ≠ .progress → s.untouched t)) ∧
    (s.fits (.faultTone line) → ∃ t, exec (.faultTone line) s = .next t ∧
      (u.state = .progress → s.callEnded t line .faultTone s.clock.now) ∧ (u.state ≠ .progress → s.untouched t)) ∧
    (s.fits (.carrierLost line) → ∃ t, exec (.carrierLost line) s = .next t ∧
      (u.state = .connected → s.callEnded t line .carrierLost s.clock.now) ∧ (u.state ≠ .connected → s.untouched t))

/-- R128, R130, R131, R77: an outgoing call has ended in one of the rows that end it, with the cause given at an instant:
the recipient that the line served is settled by its confirmed pages, its cancel mark, the cause and its attempts; its job
counts it; a terminal recipient is reported; and a job with nobody left WAITING or ON_LINE finishes, lets go of its pages
and is reported. The line no longer serves. -/
def Sys2Proof.Claim.RecipientSettled : Prop :=
  ∀ (line : Line) (c : Instr) (cause : Cause) (now : Nat) (s : State) (j i : Nat) (x : Job) (r : Recipient),
    Memory.wf s.mem = true → (s.line line).direction = some .outgoing → (s.session line).role ≠ .receiver → s.servesFor line j i x r →
    let u := s.line line
    let y := s.session line
    let blind := (u.seizeSettings.map (·.blind)).getD false
    let waits := (u.state = .seized ∧ blind = false) ∨ (u.state = .dialling ∧ u.phase = .waitTone)
    let before := u.state = .seized ∨ u.state = .dialling ∨ u.state = .progress
    ((c = .faultTone line ∧ u.state = .progress ∧ cause = .faultTone ∧ now = s.clock.now) ∨
      (∃ on off, c = .toneCycleEnd line on off ∧ u.state = .progress ∧ 2 ≤ u.busyRun ∧ 200 ≤ on ∧ on ≤ 700 ∧ 200 ≤ off ∧ off ≤ 700 ∧
        cause = .busy ∧ now = s.clock.now) ∨
      (∃ on off, c = .toneCycleEnd line on off ∧ u.state = .progress ∧ 9 ≤ u.ringbacks ∧ 700 ≤ on ∧ on ≤ 2500 ∧ 1500 ≤ off ∧
        off ≤ 5000 ∧ cause = .noAnswer ∧ now = s.clock.now) ∨
      (∃ presenceMs, c = .ringBurst ⟨line, presenceMs⟩ ∧ 200 ≤ presenceMs ∧ s.fitted line = true ∧
        (u.state = .seized ∨ (u.state = .dialling ∧ u.firstEnded = false)) ∧ cause = .glare ∧ now = s.clock.now) ∨
      (c = .progressTimeout line ∧ u.state = .progress ∧ cause = .noAnswer ∧ now = s.dueAt u.timer) ∨
      (c = .dialToneTimeout line ∧ waits ∧ cause = .noDialTone ∧ now = s.dueAt u.timer) ∨
      (c = .carrierLost line ∧ u.state = .connected ∧ cause = .carrierLost ∧ now = s.clock.now) ∨
      (c = .lineCancel line ∧ s.dispatch.cancelSent.get line = true ∧ before ∧ cause = .cancelled ∧ now = s.clock.now) ∨
      (∃ code, c = .clearReceived line code ∧ u.state = .connected ∧ y.role = .sender ∧ y.state ≠ .clearing ∧
        cause = clearEnds .sender code ∧ now = s.clock.now) ∨
      (∃ code k rest, c = .clearSent line ∧ u.state = .connected ∧ y.state = .clearing ∧ y.endCause = some cause ∧
        y.sending = .frame (.clear code) k :: rest ∧ now = s.clock.now) ∨
      (∃ tag arg, c = .hangUp tag arg ∧ s.takes ∧ s.names arg line ∧ u.hook = true ∧ cause = .hungUp ∧ now = s.clock.now)) →
    let step := if y.role = .sender then y.negotiated else 0
    let r' := r.afterCall x cause step s.clock.uptime
    let x' := x.settledTo i r'
    let ended : State := { s with
      clock := { s.clock with now := now }
      dispatch := { s.dispatch with
        jobs := s.dispatch.jobs.put j (some x'), serving := s.dispatch.serving.set line none
        cancelSent := s.dispatch.cancelSent.set line false } }
    let told := ended.reportedIf (r'.endReport j i)
    let left : State := if x'.recipients.all (fun q => !q.state.unsettled) then told.finished j x' else told
    s.fits c → ∃ t, exec c s = .next t ∧ t.dispatch = left.dispatch ∧ t.store = left.store ∧ t.report = left.report ∧
      t.showsAt (recipientRecordPlace j i) (recipientWords r') ∧ t.showsAt (jobHeaderPlace j) (jobWords (t.job j)) ∧
      t.settledAt (statusPlace + 11) = statusDispatch t.dispatch ∧
      ∀ rep, r'.endReport j i = some rep → s.reportStands t rep ∧
        (s.report.mask.getLsbD rep.kind.cls = true → s.report.unconsumed < 64 →
          t.settledAt reportProducerPlace = t.report.producer.setWidth 32)


/-! ## Chapter 5: the session procedure -/

/-- R92: the division of a page's code into session blocks of 16384 bytes and frames of 256. -/
def Sys2Proof.Claim.PageDivision : Prop :=
  ∀ c b n : Nat,
    (b < sessionBlocks c ↔ 16384 * b < c) ∧
    (n < blockFrames c b ↔ 16384 * b + 256 * n < min c (16384 * (b + 1))) ∧ blockFrames c b ≤ 64 ∧
    (n < blockFrames c b → frameLength c b n = min 256 (min c (16384 * (b + 1)) - (16384 * b + 256 * n)) ∧
      frameStart b n = 16384 * b + 256 * n)

/-- R93, R17: the payload of a DATA frame is the page's code bytes as they stand in the store. -/
def Sys2Proof.Claim.DataPayload : Prop :=
  ∀ (s : State) (x : Session) (p : Page) (rg : Regions) (n : Nat), s.page x.page = some p → s.path.regions = some rg →
    n < blockFrames p.codeBytes x.blockNumber →
    (s.dataPayload x n).length = frameLength p.codeBytes x.blockNumber n ∧
    ∀ i, i < (s.dataPayload x n).length →
      let k := 16384 * x.blockNumber + 256 * n + i
      (s.dataPayload x n).getD i 0 = Memory.read s.mem (rg.storeBase + 2048 * p.chain.getD (k / 2048) 0 + k % 2048)

/-- R88: IDENT in WAIT_IDENT opens the training, or clears REMOTE_FULL when the receiver is not ready. -/
def Sys2Proof.Claim.IdentTaken : Prop :=
  ∀ (line : Line) (id : List Byte) (maxStep : Nat) (ready : Bool) (s : State), Memory.wf s.mem = true →
    (s.session line).sendsIn .waitIdent → id.length ≤ 20 → 1 ≤ maxStep → maxStep ≤ 4 →
    let x : Session := { s.session line with remoteMax := some maxStep, identTimer := none }
    s.fits (.identReceived line id maxStep ready) → ∃ t, exec (.identReceived line id maxStep ready) s = .next t ∧
      s.sessionOnly t line s.clock.now
        (if ready then x.setupAt s.stationId (min (s.line line).settings.maxStep maxStep) else x.cleared .remoteFull)

/-- R91, R93: READY to SETUP starts the burst; READY to the burst passes the training and goes on with PAGE_HEAD of
the page at the position, or with the frames of the GAPS that caused a retraining. -/
def Sys2Proof.Claim.TrainingPassed : Prop :=
  ∀ (line : Line) (s : State) (k : Nat), Memory.wf s.mem = true → (s.session line).training = some k →
    let x := s.session line
    let y : Session := { x with
      negotiated := k, training := none, step1Retries := 0, awaiting := none, responseTimer := none }
    s.fits (.readyReceived line) → ∃ t, exec (.readyReceived line) s = .next t ∧
      (x.sendsIn .setupSent → s.sessionOnly t line s.clock.now { x with
        state := .burst, sendings := if x.repeatBurst then x.sendings else 1, repeatBurst := false, awaiting := none,
        responseTimer := none, sending := x.sending ++ [.burst k] }) ∧
      (∀ j i w r n p, x.sendsIn .burstSent → x.retrainGaps = none → s.servesFor line j i w r → 1 ≤ x.position →
        w.pageList[x.position - 1]? = some n → s.page n = some p →
        s.sessionOnly t line s.clock.now (y.headSent n p)) ∧
      (∀ n rest, x.sendsIn .burstSent → x.retrainGaps = some (n :: rest) →
        s.sessionOnly t line s.clock.now (s.blockSent { y with retrainGaps := none } x.blockNumber n rest))

/-- R91: RETRY lowers the step, or at step 1 tries again, three times in all. -/
def Sys2Proof.Claim.TrainingRetried : Prop :=
  ∀ (line : Line) (s : State) (k : Nat), Memory.wf s.mem = true → (s.session line).sendsIn .burstSent →
    (s.session line).training = some k →
    let x := s.session line
    let y : Session := { x with step1Retries := x.step1Retries + 1 }
    s.fits (.retryReceived line) → ∃ t, exec (.retryReceived line) s = .next t ∧
      s.sessionOnly t line s.clock.now
        (if 1 < k then x.setupAt s.stationId (k - 1)
         else if x.step1Retries < 2 then y.setupAt s.stationId 1
         else y.cleared .trainFail)

/-- R91, R101, R107: the burst has been sent: its response timer starts, or a pending cancel clears. -/
def Sys2Proof.Claim.BurstSent : Prop :=
  ∀ (line : Line) (s : State) (k : Nat) (rest : List LinkItem), Memory.wf s.mem = true →
    (s.session line).sending = .burst k :: rest → (s.session line).state ≠ .clearing →
    let x : Session := { s.session line with sending := rest }
    s.fits (.trainingBurstSent line) → ∃ t, exec (.trainingBurstSent line) s = .next t ∧
      s.sessionOnly t line s.clock.now
        (if x.cancelPending then x.cleared .cancelled
         else if x.state = .burst then { x with state := .burstSent, responseTimer := some (s.clock.now + 30000000) } else x)

/-- R93, R98, R99: READY to PAGE_HEAD, BLOCK_OK: the frames of the next session block, or PAGE_END. -/
def Sys2Proof.Claim.PageSent : Prop :=
  ∀ (line : Line) (block : Nat) (s : State) (p : Page) (j i : Nat) (w : Job) (r : Recipient), Memory.wf s.mem = true →
    s.page (s.session line).page = some p → s.servesFor line j i w r →
    let x := s.session line
    let more := decide (x.position < w.pageList.length)
    (x.sendsIn .headSent → s.fits (.readyReceived line) → ∃ t, exec (.readyReceived line) s = .next t ∧
      s.sessionOnly t line s.clock.now
        (if p.codeBytes = 0 then x.pageEndSent more
         else s.blockSent x 0 0 ((List.range (blockFrames p.codeBytes 0)).drop 1))) ∧
    (x.sendsIn .blockEndSent → block = x.blockNumber → s.fits (.blockOkReceived line block) →
     ∃ t, exec (.blockOkReceived line block) s = .next t ∧
      s.sessionOnly t line s.clock.now
        (if 16384 * (block + 1) < p.codeBytes then
           s.blockSent { x with rounds := 0 } (block + 1) 0 ((List.range (blockFrames p.codeBytes (block + 1))).drop 1)
         else ({ x with rounds := 0 } : Session).pageEndSent more))

/-- R98: GAPS: the listed frames again, up to three rounds; at the fourth a retraining one step lower, or
LINE_QUALITY. -/
def Sys2Proof.Claim.GapsTaken : Prop :=
  ∀ (line : Line) (s : State) (p : Page) (n : Nat) (rest : List Nat), Memory.wf s.mem = true →
    s.page (s.session line).page = some p → (s.session line).sendsIn .blockEndSent → (n :: rest).length ≤ 64 →
    (n :: rest).Pairwise (· < ·) → (∀ m ∈ n :: rest, m < blockFrames p.codeBytes (s.session line).blockNumber) →
    let x := s.session line
    let y : Session := { x with rounds := x.rounds + 1 }
    s.fits (.gapsReceived line x.blockNumber (n :: rest)) →
    ∃ t, exec (.gapsReceived line x.blockNumber (n :: rest)) s = .next t ∧
      s.sessionOnly t line s.clock.now
        (if x.rounds < 3 then s.blockSent y x.blockNumber n rest
         else if 1 < x.negotiated then
           ({ y with rounds := 0, step1Retries := 0, retrainGaps := some (n :: rest) } : Session).setupAt s.stationId
             (x.negotiated - 1)
         else y.cleared .lineQuality)

/-- R93, R98: STORE_FULL ends the session with REMOTE_FULL. -/
def Sys2Proof.Claim.StoreFullTaken : Prop :=
  ∀ (line : Line) (s : State), Memory.wf s.mem = true →
    (s.session line).sendsIn .headSent ∨ (s.session line).sendsIn .blockEndSent →
    s.fits (.storeFullReceived line) →
    ∃ t, exec (.storeFullReceived line) s = .next t ∧ s.sessionOnly t line s.clock.now ((s.session line).cleared .remoteFull)

/-- R100: PAGE_OK confirms one page of the recipient, and PAGE_HEAD of the next follows, or CLEAR(COMPLETED). -/
def Sys2Proof.Claim.PageConfirmed : Prop :=
  ∀ (line : Line) (s : State) (j i : Nat) (w : Job) (r : Recipient), Memory.wf s.mem = true →
    (s.session line).sendsIn .pageEndSent → s.servesFor line j i w r →
    let x := s.session line
    let y : Session := { x with pagesDone := x.pagesDone + 1, awaiting := none, responseTimer := none }
    let r' : Recipient := { r with pagesConfirmed := r.pagesConfirmed + 1 }
    let after (z : Session) : State := { s with
      sessions := s.sessions.set line z
      dispatch := { s.dispatch with jobs := s.dispatch.jobs.put j (some { w with recipients := w.recipients.set i r' }) } }
    let places := span (recipientRecordPlace j i) 8 ++ [sessionPlace line]
    s.fits (.pageOkReceived line) →
    ∃ t, exec (.pageOkReceived line) s = .next t ∧ t.showsAt (recipientRecordPlace j i) (recipientWords r') ∧
      (w.pageList.length ≤ x.position → (after (y.cleared .completed)).moves t places ∧
        t.settledAt (sessionPlace line) = statusSession (y.cleared .completed)) ∧
      (∀ n p, w.pageList[x.position]? = some n → s.page n = some p →
        let z := ({ y with position := x.position + 1 } : Session).headSent n p
        (after z).moves t places ∧ t.settledAt (sessionPlace line) = statusSession z)

/-- R98, R101, R107, R87: the data pump reports a frame sent: the next DATA frame, whose bytes the engine reads, or
BLOCK_END follows, the response timer or IDENT's starts, or a pending cancel clears. A DATA frame whose bytes are not all
read yet cannot have been sent, and its row changes nothing (log 6). -/
def Sys2Proof.Claim.FrameSent : Prop :=
  ∀ (line : Line) (s : State) (f : Frame) (k : Nat) (rest : List LinkItem), Memory.wf s.mem = true →
    (s.session line).sending = .frame f k :: rest → (∀ c, f ≠ .clear c) →
    let x : Session := { s.session line with sending := rest, lastSent := f.wire }
    let unread := x.reads ≠ [] ∧ ∃ b m d, f = .data b m d
    let is := s.sessionOnly
    s.fits (.frameSent line) → ∃ t, exec (.frameSent line) s = .next t ∧
      (unread → s.untouched t) ∧
      (¬ unread → x.state = .clearing → is t line s.clock.now x) ∧
      (¬ unread → x.state ≠ .clearing → x.cancelPending = true → is t line s.clock.now (x.cleared .cancelled)) ∧
      (¬ unread → x.state ≠ .clearing → x.cancelPending = false →
        (∀ b m d n left, f = .data b m d → x.state = .block → x.inHand = n :: left →
          is t line s.clock.now { x.sent (.data x.blockNumber n (s.dataPayload x n)) with
            inHand := left, reads := s.dataPlaces x n }) ∧
        (∀ b m d p, f = .data b m d → x.state = .block → x.inHand = [] → s.page x.page = some p →
          let e := Frame.blockEnd x.blockNumber (blockFrames p.codeBytes x.blockNumber)
          is t line s.clock.now { x.sent e with
            sendings := 1, state := .blockEndSent, awaiting := some e, responseTimer := none }) ∧
        (x.awaiting = some f → (∀ b m d, f ≠ .data b m d) → (∀ id m y, f ≠ .ident id m y) →
          is t line s.clock.now { x with responseTimer := some (s.clock.now + 30000000) }) ∧
        (∀ id m y, f = .ident id m y → x.state = .identSent →
          is t line s.clock.now { x with identTimer := some (s.clock.now + 30000000) }))

/-- R101: the response timer runs out: the same frame again, for a burst its SETUP again, up to three sendings;
then NO_RESPONSE. That a SETUP sent again keeps the ID it named first is the model's choice (log 31). -/
def Sys2Proof.Claim.ResponseTimeout : Prop :=
  ∀ (line : Line) (s : State) (d : Nat), Memory.wf s.mem = true → (s.session line).responseTimer = some d →
    let x : Session := { s.session line with responseTimer := none }
    let now := max s.clock.now d
    s.fits (.responseTimeout line) → ∃ t, exec (.responseTimeout line) s = .next t ∧
      (3 ≤ x.sendings → s.sessionOnly t line now (x.cleared .noResponse)) ∧
      (∀ k, x.sendings < 3 → x.state = .burstSent → x.training = some k →
        s.sessionOnly t line now { x with
          sendings := x.sendings + 1, state := .setupSent, repeatBurst := true, awaiting := some (.setup s.stationId k),
          sending := x.sending ++ [.frame (.setup s.stationId k) 1] }) ∧
      (∀ f, x.sendings < 3 → x.state ≠ .burstSent → x.awaiting = some f →
        s.sessionOnly t line now { x with
          sendings := x.sendings + 1
          sending := x.sending ++ [.frame f (match f with
            | .setup _ _ => 1
            | _ => max 1 x.negotiated)] })

/-- R87, R88, R102: the timers of the openings and of the receiver; in roles and states that they are not for, they
change nothing (log 6). That a receiver which clears drops a BLOCK_OK or PAGE_OK that waits for its writes is the model's
choice (log 42). -/
def Sys2Proof.Claim.SessionTimers : Prop :=
  ∀ (line : Line) (s : State), Memory.wf s.mem = true →
    let x := s.session line
    let ready := decide (8 ≤ s.store.free.length) && s.store.pages.lowestFree.isSome
    (s.fits (.identTimeout line) → ∃ t, exec (.identTimeout line) s = .next t ∧
      (x.sendsIn .waitIdent → x.identTimer ≠ none → s.sessionOnly t line (s.dueAt x.identTimer) (x.cleared .noResponse)) ∧
      (¬ x.sendsIn .waitIdent → s.untouched t)) ∧
    (s.fits (.identRepeat line) → ∃ t, exec (.identRepeat line) s = .next t ∧
      (x.receivesIn .identSent → x.identTimer ≠ none →
        s.sessionOnly t line (s.dueAt x.identTimer) { x with
          identTimer := none
          sending := x.sending ++ [.frame (.ident s.stationId (s.line line).settings.maxStep ready) 1] }) ∧
      (¬ x.receivesIn .identSent → s.untouched t)) ∧
    (s.fits (.idleTimeout line) → ∃ t, exec (.idleTimeout line) s = .next t ∧
      (x.role = .receiver → x.state ≠ .clearing → x.idleTimer ≠ none →
        s.sessionOnly t line (s.dueAt x.idleTimer) (x.cleared .noResponse)) ∧
      (x.role ≠ .receiver ∨ x.state = .clearing → s.untouched t))

/-- R89, R90: SETUP is answered READY and asks for a burst; the counts of the burst decide. A burst that none was asked for
cannot happen, and its row changes nothing (log 6); that the training step is absent once a burst has been answered, RETRY
among the answers, so that no burst is asked for then, is the model's choice (log 35). -/
def Sys2Proof.Claim.ReceiverTraining : Prop :=
  ∀ (line : Line) (id : List Byte) (step bits ones k : Nat) (s : State), Memory.wf s.mem = true →
    (s.session line).role = .receiver →
    let x := s.session line
    let y : Session := { x with training := none, idleTimer := some (s.clock.now + 60000000) }
    (id.length ≤ 20 → 1 ≤ step → step ≤ 4 →
      x.state = .identSent ∨ x.state = .waitBurst ∨ x.state = .waitHead ∨ x.state = .receiving →
      s.fits (.setupReceived line id step) → ∃ t, exec (.setupReceived line id step) s = .next t ∧
        s.sessionOnly t line s.clock.now { x.heard s.clock.now with
          remoteId := some id, training := some step, state := .waitBurst, identTimer := none,
          sending := x.sending ++ [.frame .ready 1] }) ∧
    (s.fits (.trainingBurstReceived line bits ones) → ∃ t, exec (.trainingBurstReceived line bits ones) s = .next t ∧
      (x.state ≠ .waitBurst ∨ x.training = none → s.untouched t) ∧
      (x.state = .waitBurst → x.training = some k → 1 ≤ k → k ≤ 4 →
        s.sessionOnly t line s.clock.now
          (if ones + (4800 * k - bits) ≤ 5 * k - 1 then { y with
             negotiated := k, state := if x.page = 0 then .waitHead else .receiving, sending := x.sending ++ [.frame .ready 1] }
           else { y with sending := x.sending ++ [.frame .retry 1] })))

/-- R94: PAGE_HEAD: its tests in order, the page record it creates, its repeats; out of turn, and after a refused allocation
(the session has no page), it clears PROTOCOL. That a receiver which clears drops a BLOCK_OK or PAGE_OK that waits for its
writes is the model's choice (log 42). -/
def Sys2Proof.Claim.PageHeadTaken : Prop :=
  ∀ (line : Line) (number width lines bytes : Nat) (s : State), Memory.wf s.mem = true → 1 ≤ number → number ≤ 64 →
    let x := (s.session line).heard s.clock.now
    let bad := ¬ (1024 ≤ width ∧ width ≤ 2560 ∧ width % 64 = 0) ∨ 8191 < lines ∨ 2624192 < bytes
    let is := s.sessionOnly
    let full : Session := { x.sent .storeFull with state := .waitClear }
    s.fits (.pageHeadReceived line number width lines bytes) →
    ∃ t, exec (.pageHeadReceived line number width lines bytes) s = .next t ∧
      (x.receivesIn .waitHead →
        (bad → is t line s.clock.now (x.cleared .remoteRefused)) ∧
        (¬ bad → x.more = false → is t line s.clock.now (x.cleared .protocol)) ∧
        (¬ bad → x.more = true → s.store.pages.lowestFree = none → is t line s.clock.now full) ∧
        (∀ n, ¬ bad → x.more = true → s.store.pages.lowestFree = some n →
          let q : Page := { Page.filling .received .received 0 width with
            lineCount := lines, codeBytes := bytes, line := some line, remoteId := x.remoteId, rateStep := some x.negotiated }
          let y : Session := { x.sent .ready with
            page := n, position := number, blockNumber := 0, storeFailed := false, frameMap := Vector.replicate 64 false,
            state := .receiving }
          ({ s with
              store := { s.store with pages := s.store.pages.put n (some q) }, sessions := s.sessions.set line y } : State).moves
            t (span (pagePlace n) 16 ++ [sessionPlace line]) ∧
          t.showsAt (pagePlace n) (pageWords (some q)) ∧ t.settledAt (sessionPlace line) = statusSession y)) ∧
      (x.receivesIn .receiving → ∀ p, s.page x.page = some p →
        let again := number = x.position ∧ width = p.width ∧ lines = p.lineCount ∧ bytes = p.codeBytes ∧
          (x.blockNumber = 0 ∨ (x.blockNumber = 1 ∧ x.fresh))
        (again → is t line s.clock.now (x.sent .ready)) ∧ (¬ again → is t line s.clock.now (x.cleared .protocol))) ∧
      (x.receivesIn .receiving → s.page x.page = none → is t line s.clock.now (x.cleared .protocol)) ∧
      (x.receivesIn .waitClear → is t line s.clock.now (x.sent .storeFull))

/-- R95: a DATA frame that fits: the first of a session block asks for its allocation and waits, others wait with it
or go on their way to the store and are held; one that does not fit is ignored. -/
def Sys2Proof.Claim.DataTaken : Prop :=
  ∀ (line : Line) (block frame : Nat) (payload : List Byte) (s : State) (p : Page), Memory.wf s.mem = true →
    (s.session line).receivesIn .receiving → s.page (s.session line).page = some p →
    let x := (s.session line).heard s.clock.now
    let fits := block = x.blockNumber ∧ x.storeFailed = false ∧ frame < blockFrames p.codeBytes block ∧
      payload.length = frameLength p.codeBytes block frame
    ∃ t, exec (.dataReceived line block frame payload) s = .next t ∧
      (¬ fits → s.ignores t line) ∧
      (fits → x.allocAsked ≠ none →
        s.sessionOnly t line s.clock.now { x with waitingData := x.waitingData ++ [(frame, payload)] }) ∧
      (fits → x.allocAsked = none → x.fresh →
        s.sessionOnly t line s.clock.now { x with
          allocAsked := some ((min 16384 (p.codeBytes - 16384 * block) + 2047) / 2048), waitingData := [(frame, payload)] }) ∧
      (fits → x.allocAsked = none → ¬ x.fresh →
        s.sessionOnly t line s.clock.now { x with
          writes := x.writes ++
            payload.zipIdx.map (fun b => (s.codeAddr p (16384 * block + 256 * frame + b.2), b.1))
          frameMap := x.frameMap.setIfInBounds frame true })

/-- R97: BLOCK_END in its six cases and in WAIT_CLEAR; BLOCK_OK once the session block's writes are in DRAM:
in this event when none is left (log 21). A BLOCK_DATA_DRAINED with no drain waited for, or with writes left, changes
nothing (log 6). That a receiver which clears drops a BLOCK_OK that waits for its writes is the model's choice (log 42). -/
def Sys2Proof.Claim.BlockEndTaken : Prop :=
  ∀ (line : Line) (block count : Nat) (s : State) (p : Page), Memory.wf s.mem = true → 1 ≤ count → count ≤ 64 →
    (s.page (s.session line).page = some p ∨ (s.session line).storeFailed = true) →
    let x := (s.session line).heard s.clock.now
    let missing := (List.range count).filter fun n => !(x.frameMap.getD n false)
    let ok (y : Session) : Session := { y.sent (.blockOk y.blockNumber) with
      blockNumber := y.blockNumber + 1, frameMap := Vector.replicate 64 false, drain := .none }
    let is := s.sessionOnly
    (s.fits (.blockEndReceived line block count) → ∃ t, exec (.blockEndReceived line block count) s = .next t ∧
      (x.receivesIn .receiving →
        (block + 1 = x.blockNumber → x.fresh → is t line s.clock.now (x.sent (.blockOk block))) ∧
        (block ≠ x.blockNumber → ¬ (block + 1 = x.blockNumber ∧ x.fresh) → s.ignores t line) ∧
        (block = x.blockNumber → x.allocAsked ≠ none → is t line s.clock.now { x with waitingEnds := x.waitingEnds ++ [count] }) ∧
        (block = x.blockNumber → x.allocAsked = none →
          (x.storeFailed = true → is t line s.clock.now { x.sent .storeFull with state := .waitClear }) ∧
          (x.storeFailed = false → count ≠ blockFrames p.codeBytes block → is t line s.clock.now (x.cleared .protocol)) ∧
          (x.storeFailed = false → count = blockFrames p.codeBytes block → missing = [] → x.writes = [] →
            is t line s.clock.now (ok x)) ∧
          (x.storeFailed = false → count = blockFrames p.codeBytes block → missing = [] → x.writes ≠ [] →
            is t line s.clock.now { x with drain := .block }) ∧
          (x.storeFailed = false → count = blockFrames p.codeBytes block → missing ≠ [] →
            is t line s.clock.now (x.sent (.gaps block missing))))) ∧
      (x.receivesIn .waitClear → is t line s.clock.now (x.sent .storeFull))) ∧
    (s.fits (.blockDataDrained line) → ∃ t, exec (.blockDataDrained line) s = .next t ∧
      ((s.session line).drain ≠ .block ∨ (s.session line).writes ≠ [] → s.untouched t) ∧
      ((s.session line).drain = .block → (s.session line).writes = [] → is t line s.clock.now (ok (s.session line))))

/-- R99, R12, R44, R49, R58: PAGE_END: the page received completes once its writes are in DRAM and joins the print queue, or
is kept when 64 pages wait; into an empty queue in RUN it starts, and a page of 0 lines is printed in that event, ahead of
PAGE_COMPLETED; a repeat is answered again; one that comes early, and one after a refused allocation (the session has no
page), clears PROTOCOL. That it completes in this event when no write is left, and what a repeat before the completion or
after it does with `more`, are the model's choices (log 21), and so are that a receiver which clears drops a PAGE_OK or
BLOCK_OK that waits for its writes (log 42) and what the render context holds in IDLE (log 37). A PAGE_DATA_DRAINED with
writes left changes nothing (log 6). -/
def Sys2Proof.Claim.PageEndTaken : Prop :=
  ∀ (line : Line) (more : Bool) (s : State) (p : Page), Memory.wf s.mem = true →
    let x := (s.session line).heard s.clock.now
    let n := x.page
    let whole := x.storeFailed = false ∧ 16384 * x.blockNumber ≥ p.codeBytes ∧ 16384 * x.blockNumber < p.codeBytes + 16384
    let rep : Report :=
      { kind := .pageCompleted, page := n, line := some line, value1 := some p.lineCount, value2 := some p.codeBytes }
    let full : Report :=
      { kind := .printQueueFull, page := n, job := p.job, line := some line, value1 := some s.render.queue.length }
    let printed : Report := { kind := .pagePrinted, page := n, job := p.job, value1 := some 0, value2 := some 0 }
    let completed (t : State) (y : Session) : Prop :=
      let q : Page := { p with complete := true, completion := some s.clock.calendar }
      let z : Session := { y.sent .pageOk with
        pagesDone := y.pagesDone + 1, more := more, page := 0, lastPage := n, drain := .none, state := .waitHead }
      let v : State := { s with sessions := s.sessions.set line z }
      let places := span (pagePlace n) 16 ++ [statusPlace + 4, sessionPlace line]
      t.settledAt (sessionPlace line) = statusSession z ∧
      (64 ≤ s.render.queue.length →
        ((((v.setPage n (some { q with keepHold := true })).reported full).reported rep).moves t
          (places ++ s.reportPlaces full ++ (s.reported full).reportPlaces rep))) ∧
      (s.render.queue.length < 64 → s.render.rendering = true ∨ s.render.mode = .hold →
        ((({ v.setPage n (some { q with printHold := true }) with
            render := { s.render with queue := s.render.queue ++ [n] } } : State).reported rep).moves t
          (places ++ s.reportPlaces rep))) ∧
      (s.render.queue.length < 64 → s.render.rendering = false → s.render.mode = .run → s.render.queue = [] →
        0 < p.lineCount →
        t.render = ({ s.render with queue := [n] } : Render).started n p ∧ t.session line = z ∧
          t.page n = some { q with printHold := true } ∧ t.report = (s.reported rep).report) ∧
      (s.render.queue.length < 64 → s.render.rendering = false → s.render.mode = .run → s.render.queue = [] → p.lineCount = 0 →
        t.render = s.render.idled ∧ t.session line = z ∧ t.report = ((s.reported printed).reported rep).report ∧
        s.reportStands t printed ∧
        (p.sendHold = false → p.keepHold = false → t.page n = none ∧ t.store.free = s.store.free ++ p.chain) ∧
        (p.sendHold = true ∨ p.keepHold = true → ∃ r, t.page n = some r ∧ t.store.free = s.store.free ∧
          r = { q with printHold := false, damaged := r.damaged }) ∧
        ({ v with store := t.store, render := t.render, report := t.report } : State).moves t
          (places ++ [statusPlace + 3] ++ s.reportPlaces printed ++ (s.reported printed).reportPlaces rep))
    (x.receivesIn .receiving → s.page n = some p → s.fits (.pageEndReceived line more) →
     ∃ t, exec (.pageEndReceived line more) s = .next t ∧
      (whole → x.writes = [] → completed t x) ∧
      (whole → x.writes ≠ [] → s.sessionOnly t line s.clock.now { x with drain := .page more }) ∧
      (¬ whole → s.sessionOnly t line s.clock.now (x.cleared .protocol))) ∧
    (x.receivesIn .receiving → x.storeFailed = true → s.fits (.pageEndReceived line more) →
      ∃ t, exec (.pageEndReceived line more) s = .next t ∧ s.sessionOnly t line s.clock.now (x.cleared .protocol)) ∧
    (x.receivesIn .waitHead → 0 < x.pagesDone → s.fits (.pageEndReceived line more) →
     ∃ t, exec (.pageEndReceived line more) s = .next t ∧
      s.sessionOnly t line s.clock.now (x.sent .pageOk)) ∧
    ((s.session line).receivesIn .receiving → (s.session line).drain = .page more → s.page n = some p →
      s.fits (.pageDataDrained line) → ∃ t, exec (.pageDataDrained line) s = .next t ∧
        ((s.session line).writes = [] → completed t (s.session line)) ∧ ((s.session line).writes ≠ [] → s.untouched t))

/-- R103 to R106: CLEAR sent, CLEAR taken, and a lost carrier end the call, each with its cause, and with it the
session. -/
def Sys2Proof.Claim.SessionEnds : Prop :=
  ∀ (line : Line) (s : State), Memory.wf s.mem = true → (s.line line).state = .connected →
    let x := s.session line
    let ends (t : State) (c : Cause) : Prop := s.callEnded t line c s.clock.now ∧
      (x.role = .receiver → (s.line line).direction = some .incoming → s.receiverEnded t line c)
    (∀ c code k rest, x.state = .clearing → x.endCause = some c → x.sending = .frame (.clear code) k :: rest →
      s.fits (.clearSent line) → ∃ t, exec (.clearSent line) s = .next t ∧ ends t c) ∧
    (∀ code, x.role ≠ .none → x.state ≠ .clearing →
      s.fits (.clearReceived line code) →
      ∃ t, exec (.clearReceived line code) s = .next t ∧ ends t (clearEnds x.role code)) ∧
    (s.fits (.carrierLost line) → ∃ t, exec (.carrierLost line) s = .next t ∧ ends t .carrierLost)

/-- R83, R84, R91, R94 to R100, R102, R104, R105: a frame that the role and the state do not expect, or whose fields
lie outside their ranges, moves no state, and a frame with a check error does nothing. -/
def Sys2Proof.Claim.FramesIgnored : Prop :=
  ∀ (line : Line) (s : State),
    let x := s.session line
    let frames := blockFrames ((s.page x.page).map (·.codeBytes) |>.getD 0) x.blockNumber
    (∀ id maxStep ready, ¬ x.sendsIn .waitIdent ∨ 20 < id.length ∨ maxStep = 0 ∨ 4 < maxStep →
      ∃ t, exec (.identReceived line id maxStep ready) s = .next t ∧ s.ignores t line) ∧
    (∀ id step, x.role ≠ .receiver ∨ (x.state ≠ .identSent ∧ x.state ≠ .waitBurst ∧ x.state ≠ .waitHead ∧
        x.state ≠ .receiving) ∨ 20 < id.length ∨ step = 0 ∨ 4 < step →
      ∃ t, exec (.setupReceived line id step) s = .next t ∧ s.ignores t line) ∧
    (¬ x.sendsIn .setupSent ∧ ¬ x.sendsIn .burstSent ∧ ¬ x.sendsIn .headSent →
      ∃ t, exec (.readyReceived line) s = .next t ∧ s.ignores t line) ∧
    (¬ x.sendsIn .burstSent → ∃ t, exec (.retryReceived line) s = .next t ∧ s.ignores t line) ∧
    (∀ block, ¬ x.sendsIn .blockEndSent ∨ block ≠ x.blockNumber →
      ∃ t, exec (.blockOkReceived line block) s = .next t ∧ s.ignores t line) ∧
    (∀ block gaps, ¬ x.sendsIn .blockEndSent ∨ block ≠ x.blockNumber ∨ gaps = [] ∨ 64 < gaps.length ∨
        ¬ gaps.Pairwise (· < ·) ∨ (∃ n ∈ gaps, frames ≤ n) →
      ∃ t, exec (.gapsReceived line block gaps) s = .next t ∧ s.ignores t line) ∧
    (¬ x.sendsIn .headSent ∧ ¬ x.sendsIn .blockEndSent →
      ∃ t, exec (.storeFullReceived line) s = .next t ∧ s.ignores t line) ∧
    (¬ x.sendsIn .pageEndSent → ∃ t, exec (.pageOkReceived line) s = .next t ∧ s.ignores t line) ∧
    (∀ number width lines bytes, ¬ x.receivesIn .waitHead ∧ ¬ x.receivesIn .receiving ∧ ¬ x.receivesIn .waitClear ∨
        number = 0 ∨ 64 < number →
      ∃ t, exec (.pageHeadReceived line number width lines bytes) s = .next t ∧ s.ignores t line) ∧
    (∀ block frame payload, ¬ x.receivesIn .receiving ∨ block ≠ x.blockNumber ∨ x.storeFailed = true ∨ frames ≤ frame →
      ∃ t, exec (.dataReceived line block frame payload) s = .next t ∧ s.ignores t line) ∧
    (∀ block count, ¬ x.receivesIn .receiving ∧ ¬ x.receivesIn .waitClear ∨ count = 0 ∨ 64 < count →
      ∃ t, exec (.blockEndReceived line block count) s = .next t ∧ s.ignores t line) ∧
    (∀ more, ¬ x.receivesIn .receiving ∧ ¬ (x.receivesIn .waitHead ∧ 0 < x.pagesDone) →
      ∃ t, exec (.pageEndReceived line more) s = .next t ∧ s.ignores t line) ∧
    (∀ code, x.role = .none ∨ x.state = .clearing → ∃ t, exec (.clearReceived line code) s = .next t ∧ s.ignores t line) ∧
    ∀ bytes : List Byte,
      let good := 3 ≤ bytes.length ∧ bytes.drop (bytes.length - 2) = checkBytes (bytes.take (bytes.length - 2))
      ∃ t, exec (.frameRejected line bytes) s = .next t ∧ (good → s.ignores t line) ∧ (¬ good → s.untouched t)

/-- R109: SET_STATION_ID takes the characters before the first byte of 0, of at most 20, and refuses a character that
is no digit, space or plus sign. -/
def Sys2Proof.Claim.SetStationId : Prop :=
  ∀ (tag : Tag) (w1 w2 w3 w4 w5 : Word) (s : State), s.takes →
    let chars := [w1, w2, w3, w4, w5].flatMap fun w => [w.byte 0, w.byte 1, w.byte 2, w.byte 3]
    let id := chars.takeWhile fun b => b ≠ 0
    let allowed := ∀ b ∈ id, (0x30 ≤ b.toNat ∧ b.toNat ≤ 0x39) ∨ b.toNat = 0x20 ∨ b.toNat = 0x2B
    s.fits (.setStationId tag w1 w2 w3 w4 w5) → ∃ t, exec (.setStationId tag w1 w2 w3 w4 w5) s = .next t ∧
      (¬ allowed → s.refusedWith t tag .badArgument) ∧
      (allowed → ({ s.commandDone with stationId := id } : State).moves t (s.commandPlaces ++ span (statusPlace + 17) 6) ∧
        t.showsAt (statusPlace + 17) (idWords (some id)) ∧ s.answered t tag (.done (BitVec.ofNat 32 id.length)))

/-! ## Chapter 6: send jobs and dispatch -/

/-- R113: CREATE_JOB: its tests in order, and the job at the lowest free number. -/
def Sys2Proof.Claim.CreateJob : Prop :=
  ∀ (tag : Tag) (desk priority release maxAttempts interval : Word) (s : State), s.takes →
    let bad := 31 < desk.toNat ∨ 1 < priority.toNat ∨ 1 < release.toNat
    s.fits (.createJob tag desk priority release maxAttempts interval) →
    ∃ t, exec (.createJob tag desk priority release maxAttempts interval) s = .next t ∧
      (bad → s.refusedWith t tag .badArgument) ∧
      (¬ bad → (∀ j, 1 ≤ j → j ≤ 16 → s.job j ≠ none) → s.refusedWith t tag .full) ∧
      (∀ j, ¬ bad → 1 ≤ j → j ≤ 16 → s.job j = none → (∀ k, 1 ≤ k → k < j → s.job k ≠ none) →
        let x : Job :=
          { state := .assembling, desk := desk.toNat, priority := if priority = 0 then .normal else .deadline,
            release := if release = 0 then .now else .timetable, maxAttempts := max 1 (min maxAttempts.toNat 9),
            interval := max 1 (min interval.toNat 60), submitSeq := none, pageList := [], recipients := [], done := 0,
            failed := 0, cancelled := 0 }
        (s.commandDone.withJobRecord j (some x)).moves t (s.commandPlaces ++ jobPlaces j) ∧
          t.showsAt (jobHeaderPlace j) (jobWords (some x)) ∧ s.answered t tag (.done (BitVec.ofNat 32 j)))

/-- R114, R112, R195: ADD_RECIPIENT: its tests in order, the number from its codes before the end code, and the new
record at the next index. -/
def Sys2Proof.Claim.AddRecipient : Prop :=
  ∀ (tag : Tag) (job n1 n2 n3 n4 : Word) (s : State), s.takes →
    let j := job.toNat
    let codes := [n1, n2, n3, n4].flatMap fun w => (List.range 8).map fun k =>
      w.toNat / 2 ^ (8 * (k / 2) + if k % 2 = 0 then 4 else 0) % 16
    let before := codes.takeWhile fun c => c ≠ 15
    let bad := before = [] ∨ ∃ c ∈ before, 13 < c
    s.fits (.addRecipient tag job n1 n2 n3 n4) → ∃ t, exec (.addRecipient tag job n1 n2 n3 n4) s = .next t ∧
      (s.job j = none → s.refusedWith t tag .noSuch) ∧
      ∀ x, s.job j = some x →
        (x.state ≠ .assembling → s.refusedWith t tag .state) ∧
        (x.state = .assembling → bad → s.refusedWith t tag .badArgument) ∧
        (x.state = .assembling → ¬ bad → 32 ≤ x.recipients.length → s.refusedWith t tag .full) ∧
        (∀ number : List Symbol, x.state = .assembling → ¬ bad → x.recipients.length < 32 → number.map Symbol.code = before →
          let i := x.recipients.length
          let r : Recipient :=
            { number := number, state := .waiting, attempts := 0, pagesConfirmed := 0, nextTry := 0, cancelMark := false,
              lastCause := none, lastLine := none, lastStep := none, lastCall := none }
          let y : Job := { x with recipients := x.recipients ++ [r] }
          (s.commandDone.withJobRecord j (some y)).moves t (s.commandPlaces ++ recipientPlaces j i ++ jobPlaces j) ∧
            t.showsAt (recipientRecordPlace j i) (recipientWords r) ∧ t.showsAt (jobHeaderPlace j) (jobWords (some y)) ∧
            s.answered t tag (.done (BitVec.ofNat 32 i)))

/-- R116, R117, R121, R132: SUBMIT_JOB, RELEASE_JOB and DELETE_JOB, which clears the job's record and those of its
recipients. -/
def Sys2Proof.Claim.JobMoves : Prop :=
  ∀ (tag : Tag) (job : Word) (s : State), s.takes →
    let j := job.toNat
    let capturing := s.coder.state ≠ .idle ∧ s.coder.job = j
    let seq := s.dispatch.submitSeq
    (s.fits (.submitJob tag job) →
     ∃ t, exec (.submitJob tag job) s = .next t ∧ (s.job j = none → s.refusedWith t tag .noSuch) ∧
      ∀ x, s.job j = some x →
        (x.state ≠ .assembling ∨ capturing → s.refusedWith t tag .state) ∧
        (x.state = .assembling → ¬ capturing → x.pageList = [] ∨ x.recipients = [] → s.refusedWith t tag .empty) ∧
        (x.state = .assembling → ¬ capturing → x.pageList ≠ [] → x.recipients ≠ [] →
          let y : Job := { x with
            submitSeq := some seq, state := if x.release = .timetable then .held else .ready,
            recipients := x.recipients.map fun r => { r with nextTry := s.clock.uptime } }
          ({ s.commandDone with dispatch := { s.dispatch with
                jobs := s.dispatch.jobs.put j (some y), submitSeq := if seq = 4294967295 then 1 else seq + 1 } } : State).moves t
            (s.commandPlaces ++ jobPlaces j ++ allRecipientPlaces j x ++ [statusPlace + 11]) ∧
          t.showsAt (jobHeaderPlace j) (jobWords (some y)) ∧ t.settledAt (statusPlace + 11) = statusDispatch t.dispatch ∧
          s.answered t tag (.done (BitVec.ofNat 32 seq)))) ∧
    (s.fits (.releaseJob tag job) →
     ∃ t, exec (.releaseJob tag job) s = .next t ∧ (s.job j = none → s.refusedWith t tag .noSuch) ∧
      ∀ x, s.job j = some x →
        (x.state ≠ .held → s.refusedWith t tag .state) ∧
        (x.state = .held →
          (s.commandDone.withJobRecord j (some { x with state := .ready })).moves t (s.commandPlaces ++ jobPlaces j) ∧
            t.showsAt (jobHeaderPlace j) (jobWords (some { x with state := .ready })) ∧ s.answered t tag (.done 0))) ∧
    (s.fits (.deleteJob tag job) →
     ∃ t, exec (.deleteJob tag job) s = .next t ∧ (s.job j = none → s.refusedWith t tag .noSuch) ∧
      ∀ x, s.job j = some x →
        (x.state ≠ .finished → s.refusedWith t tag .state) ∧
        (x.state = .finished →
          (s.commandDone.withJobRecord j none).moves t (s.commandPlaces ++ jobPlaces j ++ allRecipientPlaces j x) ∧
            t.showsAt (jobHeaderPlace j) (jobWords none) ∧
            (∀ i, i < x.recipients.length → t.showsAt (recipientRecordPlace j i) (List.replicate 8 0)) ∧
            s.answered t tag (.done 0)))

/-- R118, R120, R130: CANCEL_JOB cancels the WAITING recipients and marks those ON_LINE; with none ON_LINE the job
finishes; each line that serves the job, one or both, is sent a cancel; first a capture for the job ends: OPEN, its page is
freed, FULL, the context becomes IDLE. That a connected session has the cancel in this event and a line before its answer has
it at LINE_CANCEL (log 17), that code bytes of an OPEN capture which have not yet reached DRAM are dropped with its page (log
41), and, in IDLE, the line numbers of the slots (log 20) and the other fields of the context that the rules do not give (log
43) are the model's choices. -/
def Sys2Proof.Claim.CancelJob : Prop :=
  ∀ (tag : Tag) (job : Word) (s : State), s.takes → s.path.held = none → s.path.stalled = [] →
    (∀ l i, s.dispatch.asked ≠ some (l, job.toNat, i)) →
    let j := job.toNat
    let m := s.coder.page
    let opened : Bool := decide (s.coder.state = .opened ∧ s.coder.job = j)
    let ended : State := { s.commandDone with
      coder := if s.coder.state ≠ .idle ∧ s.coder.job = j then Coder.powerOn else s.coder
      store := match s.page m with
        | some p => if opened then { s.store with free := s.store.free ++ p.chain, pages := s.store.pages.put m none } else s.store
        | none => s.store }
    let places := s.commandPlaces ++ if opened then span (pagePlace m) 16 ++ [statusPlace + 3] else []
    s.fits (.cancelJob tag job) →
    ∃ t, exec (.cancelJob tag job) s = .next t ∧ (s.job j = none → s.refusedWith t tag .noSuch) ∧
      ∀ x, s.job j = some x →
        let n := x.recipients.countP fun r => r.state = .waiting
        let y : Job := { x with
          cancelled := x.cancelled + n
          recipients := x.recipients.map fun r =>
            if r.state = .waiting then { r with state := .cancelled }
            else if r.state = .onLine then { r with cancelMark := true } else r }
        let told (l : Line) : Bool := s.servesJob l j && s.cancelReaches l
        let session (l : Line) : Session := if told l then (s.session l).cancelled else s.session l
        let sent (l : Line) : Bool :=
          s.dispatch.cancelSent.get l || (s.servesJob l j && decide ((s.line l).state ≠ .connected))
        (x.state = .finished → s.refusedWith t tag .state) ∧
        (x.state ≠ .finished → s.answered t tag (.done (BitVec.ofNat 32 n))) ∧
        (∀ p, x.state ≠ .finished → opened = true → s.page m = some p →
          t.coder = Coder.powerOn ∧ t.page m = none ∧ t.showsAt (pagePlace m) (pageWords none)) ∧
        (x.state ≠ .finished → (∀ l, s.servesJob l j = false) → (∀ r ∈ x.recipients, r.state ≠ .onLine) →
          (ended.finished j y).moves t (places ++ allRecipientPlaces j x ++ ended.finishPlaces j y)) ∧
        (x.state ≠ .finished → (∃ r ∈ x.recipients, r.state = .onLine) →
          ({ ended with
              sessions := ⟨session .A, session .B⟩
              dispatch := { s.dispatch with
                jobs := s.dispatch.jobs.put j (some y), cancelSent := ⟨sent .A, sent .B⟩ } } : State).moves t
            (places ++ allRecipientPlaces j x ++ jobPlaces j ++ ([Line.A, Line.B].filter told).map sessionPlace))

/-- R119, R120, R130: CANCEL_RECIPIENT: its tests in order; a WAITING recipient is CANCELLED, and the job finishes
when nothing is left of it; an ON_LINE one is marked and its line is sent a cancel, which a connected session
has in this event and a line before its answer at LINE_CANCEL (log 17). -/
def Sys2Proof.Claim.CancelRecipient : Prop :=
  ∀ (tag : Tag) (job index : Word) (s : State), s.takes → s.busInOrder →
    (∀ l, s.dispatch.asked ≠ some (l, job.toNat, index.toNat)) →
    let j := job.toNat
    let i := index.toNat
    s.fits (.cancelRecipient tag job index) →
    ∃ t, exec (.cancelRecipient tag job index) s = .next t ∧ (s.job j = none → s.refusedWith t tag .noSuch) ∧
      ∀ x, s.job j = some x →
        (x.recipients[i]? = none → s.refusedWith t tag .noSuch) ∧
        ∀ r, x.recipients[i]? = some r →
          let closed := x.state = .assembling ∨ x.state = .finished ∨ r.state = .done ∨ r.state = .failed ∨
            r.state = .cancelled ∨ (r.state = .onLine ∧ r.cancelMark = true)
          let y : Job := { x with
            cancelled := x.cancelled + 1, recipients := x.recipients.set i { r with state := .cancelled } }
          let z : Job := { x with recipients := x.recipients.set i { r with cancelMark := true } }
          (closed → s.refusedWith t tag .state) ∧
          (¬ closed → r.state = .waiting → s.answered t tag (.done 0) ∧
            (y.settledAll →
              (s.commandDone.finished j y).moves t
                (s.commandPlaces ++ recipientPlaces j i ++ s.commandDone.finishPlaces j y)) ∧
            (¬ y.settledAll →
              (s.commandDone.withJobRecord j (some y)).moves t (s.commandPlaces ++ recipientPlaces j i ++ jobPlaces j) ∧
                t.showsAt (recipientRecordPlace j i) (recipientWords { r with state := .cancelled }))) ∧
          (¬ closed → r.state = .onLine → s.answered t tag (.done 1) ∧
            ∀ l, s.dispatch.serving.get l = some (j, i) → s.dispatch.serving.get (Line.other l) ≠ some (j, i) →
              ((s.line l).state ≠ .connected →
                ({ s.commandDone with dispatch := { s.dispatch with
                    jobs := s.dispatch.jobs.put j (some z), cancelSent := s.dispatch.cancelSent.set l true } } : State).moves t
                  (s.commandPlaces ++ recipientPlaces j i)) ∧
              ((s.line l).state = .connected → (s.session l).role = .sender → (s.session l).state ≠ .clearing →
                (s.session l).cancelPending = false →
                ({ s.commandDone.withJobRecord j (some z) with
                    sessions := s.sessions.set l (s.session l).cancelled } : State).moves t
                  (s.commandPlaces ++ recipientPlaces j i ++ [sessionPlace l])))

/-- R120: a cancel that the dispatcher has sent reaches the line: an outgoing call before its answer ends CANCELLED, a
connected one has it handed to its session, and any other line is left as it is. With no cancel sent nothing changes
(logs 6, 17). -/
def Sys2Proof.Claim.LineCancel : Prop :=
  ∀ (line : Line) (s : State), Memory.wf s.mem = true →
    let u := s.line line
    let sent := s.dispatch.cancelSent.get line
    let taken : State := { s with dispatch := { s.dispatch with cancelSent := s.dispatch.cancelSent.set line false } }
    let before := u.state = .seized ∨ u.state = .dialling ∨ u.state = .progress
    s.fits (.lineCancel line) → ∃ t, exec (.lineCancel line) s = .next t ∧ t.dispatch.cancelSent.get line = false ∧
      (sent = false → s.untouched t) ∧
      (sent = true → u.direction = some .outgoing → before → s.callEnded t line .cancelled s.clock.now) ∧
      (sent = true → u.direction = some .outgoing → s.cancelReaches line = true →
        taken.sessionOnly t line s.clock.now (s.session line).cancelled) ∧
      (sent = true → u.direction ≠ some .outgoing ∨ (¬ before ∧ s.cancelReaches line = false) → taken.untouched t)

/-- R123 to R125: the choice: the recipient that the order takes, for line A if it is free and otherwise line B. It is
asked for when it passes the gates; with no room in the call log LOG_FULL is reported once. One that fails a gate becomes
FAILED with BARRED or DESK_LIMIT, its job finishes when nothing is left of it, and the choice is made again at once: with
nobody else eligible it ends there, and the next by the order is asked for when it passes. The tariff is as the
choice's reads have brought it (`EventReads`, log 10); one seize is asked for at a time (log 16); and DESK_LIMIT is tested as
R124 states it (log 30). -/
def Sys2Proof.Claim.DispatchChoice : Prop :=
  ∀ (s : State) (l : Line) (j i : Nat) (w : Job) (r : Recipient), Memory.wf s.mem = true → s.busQuiet → s.quietReads →
    s.dispatch.asked = none → s.lineFree l → (l = .B → ¬ s.lineFree .A) → s.choice j i w r →
    let v := s.readNow s.choiceDesks .charge choiceReads
    let barred (q : Recipient) : Prop := v.zoneBarred (v.zoneOf q.number) = true
    let overLimit (x : Job) : Prop := x.priority = .normal ∧ (s.desk x.desk).allowance ≠ 0 ∧
      (s.desk x.desk).allowance ≤ (s.desk x.desk).spent
    let room := s.charge.unconsumed + s.charge.openCount < 128
    let cause : Cause := if v.zoneBarred (v.zoneOf r.number) then .barred else .deskLimit
    let w' : Job := { w with
      failed := w.failed + 1, recipients := w.recipients.set i { r with state := .failed, lastCause := some cause } }
    let failed : Report :=
      { kind := .recipientFailed, job := j, recipient := some i, cause := some cause, value1 := some r.pagesConfirmed,
        value2 := some r.attempts }
    let full : Report :=
      { kind := .logFull, job := j, recipient := some i, value1 := some s.charge.unconsumed,
        value2 := some s.charge.openCount }
    ∃ t, exec .dispatchChoice s = .next t ∧
      (¬ barred r → ¬ overLimit w → room →
        ({ v with dispatch := { s.dispatch with asked := some (l, j, i) } } : State).moves t []) ∧
      (¬ barred r → ¬ overLimit w → ¬ room → s.dispatch.logFull = true → v.moves t []) ∧
      (¬ barred r → ¬ overLimit w → ¬ room → s.dispatch.logFull = false →
        (({ v with dispatch := { s.dispatch with logFull := true } } : State).reported full).moves t
          ([statusPlace + 11] ++ s.reportPlaces full)) ∧
      (barred r ∨ overLimit w →
        let settled := w'.recipients.all fun q => !q.state.unsettled
        let u : State := if settled then (v.reported failed).finished j w' else (v.withJobRecord j (some w')).reported failed
        let places := recipientPlaces j i ++ s.reportPlaces failed ++
          if settled then (s.reported failed).finishPlaces j w' else jobPlaces j
        ((∀ j' i' x q, ¬ u.eligible j' i' x q) → u.moves t places) ∧
        (∀ j' i' x q, u.choice j' i' x q → ¬ barred q → ¬ overLimit x → room →
          ({ u with dispatch := { u.dispatch with asked := some (l, j', i') } } : State).moves t places))

/-- R122, R123: no choice is made with no free line, with nobody eligible, or while a seize is asked for (log 16). -/
def Sys2Proof.Claim.NoChoice : Prop :=
  ∀ s : State, s.busInOrder → s.dispatch.asked ≠ none ∨ (∀ l, ¬ s.lineFree l) ∨ (∀ j i w r, ¬ s.eligible j i w r) →
    ∃ t, exec .dispatchChoice s = .next t ∧ s.untouched t

/-- R68, R126, R138: the seize taken: the line, the call record, the recipient and its job, with the tariff as the seize's
reads have brought it (`EventReads`, log 10). In the state `u` that this leaves the dispatcher chooses again in the same event,
for the other line, and does what DISPATCH_CHOICE does in that state (R123); with no choice to make `u` is all. Refused on line
A the seize is asked for on line B; that of a recipient no longer eligible is dropped (log 16). -/
def Sys2Proof.Claim.SeizeTaken : Prop :=
  ∀ (line : Line) (s : State) (j i : Nat), Memory.wf s.mem = true → s.busInOrder →
    s.dispatch.asked = some (line, j, i) →
    let x := (s.line line).settings
    let now := s.clock.now
    let seq := s.charge.callSeq
    let done : State := { s with dispatch := { s.dispatch with asked := none } }
    ∃ t, exec (.seize line) s = .next t ∧
      (∀ w r, s.quietReads → s.busQuiet → s.eligible j i w r → s.lineFree line →
        let v := s.readNow [w.desk] .charge (if x.metered then prefixReads ++ meterReads line else prefixReads)
        let u' : LineUnit := { s.line line with
          state := .seized, direction := some .outgoing, number := some r.number, nextSymbol := 0, firstEnded := false,
          seizeSettings := some ⟨x.method, x.blind, x.metered⟩, pulses := 0, busyRun := 0, ringbacks := 0, endCause := none,
          phase := .none, timer := some (now + if x.blind then 20000000 else 50000000) }
        let c : CallRecord :=
          { sequence := seq, line := line, desk := w.desk, job := j, recipient := i, number := r.number,
            zone := v.zoneOf r.number, seizeTime := s.clock.calendar, endTime := none, answerOffset := none,
            connectedTenths := 0, units := 0, pulses := 0, cost := 0, band := none, step := 0, cause := none,
            metered := x.metered, timeUnset := s.clock.unset, saturated := false, overAllowance := false,
            meterPrice := if x.metered then v.meterPriceOf line else 0, seizeAt := now, answerAt := none,
            nextDue := none }
        let r' : Recipient := { r with
          state := .onLine, lastLine := some line, attempts := r.attempts + 1, lastCall := some seq }
        let w' : Job := { w with state := .active, recipients := w.recipients.set i r' }
        let k : Desk := { s.desk w.desk with calls := min 65535 ((s.desk w.desk).calls + 1) }
        let seized (u : State) : Prop :=
          ({ v with
              lines := s.lines.set line u'
              charge := { s.charge with
                calls := s.charge.calls.set line (some c), desks := s.charge.desks.setIfInBounds w.desk k
                callSeq := if seq = 4294967295 then 1 else seq + 1 }
              dispatch := { s.dispatch with
                asked := none, jobs := s.dispatch.jobs.put j (some w'), serving := s.dispatch.serving.set line (some (j, i)) }
              guard := s.guardAfter now true } : State).moves u
            ([linePlace line, statusPlace + 12, statusPlace + 13, statusPlace + 11] ++ span (openPlace line) 16 ++
              span (deskRecordPlace w.desk) 8 ++ recipientPlaces j i ++ jobPlaces j) ∧
          u.settledAt (linePlace line) = statusLine u' ∧ u.showsAt (openPlace line) (callWords (some c)) ∧
          u.showsAt (recipientRecordPlace j i) (recipientWords r') ∧ u.showsAt (jobHeaderPlace j) (jobWords (some w'))
        (∃ u, seized u ∧ u.quietReads ∧ exec .dispatchChoice u = .next t) ∧
          (¬ s.lineFree (Line.other line) ∨ (∀ j' i' v q, s.eligible j' i' v q → (j', i') = (j, i)) → seized t)) ∧
      (∀ w r, s.eligible j i w r → ¬ s.lineFree line →
        (line = .A → s.lineFree .B →
          ({ s with dispatch := { s.dispatch with asked := some (.B, j, i) } } : State).untouched t) ∧
        (line = .B ∨ ¬ s.lineFree .B → done.untouched t)) ∧
      ((∀ w r, ¬ s.eligible j i w r) → done.untouched t)

/-- A SEIZE on a line for which none is asked changes nothing (log 6). -/
def Sys2Proof.Claim.SeizeNotAsked : Prop :=
  ∀ (line : Line) (s : State), s.busInOrder → (∀ j i, s.dispatch.asked ≠ some (line, j, i)) →
    ∃ t, exec (.seize line) s = .next t ∧ s.untouched t

/-- R123, R126: a cancel that comes after the choice finds its recipient ON_LINE: the seize asked for is taken ahead of it, on
line B where line A refuses it, and the recipient is marked and its line sent the cancel. Where the lines refuse the seize the
cancel finds the recipient WAITING. That the seize is taken in the row of the cancel is the model's choice (log 16). -/
def Sys2Proof.Claim.CancelAfterChoice : Prop :=
  ∀ (tag : Tag) (job index : Word) (s : State) (line : Line) (w : Job) (r : Recipient),
    let j := job.toNat
    let i := index.toNat
    s.takes → s.quietReads → s.busQuiet → s.dispatch.asked = some (line, j, i) → s.eligible j i w r → r.cancelMark = false →
    let onLine (t : State) (l : Line) : Prop :=
      (t.line l).state = .seized ∧ t.dispatch.serving.get l = some (j, i) ∧ t.dispatch.cancelSent.get l = true ∧
        t.recipient j i = some { r with
          state := .onLine, lastLine := some l, attempts := r.attempts + 1, lastCall := some s.charge.callSeq, cancelMark := true }
    let refused (t : State) : Prop :=
      t.recipient j i = some { r with state := .cancelled } ∧ t.lines = s.lines ∧ t.dispatch.asked = none
    s.fits (.cancelRecipient tag job index) → s.fits (.cancelJob tag job) →
    ∃ t q, exec (.cancelRecipient tag job index) s = .next t ∧ exec (.cancelJob tag job) s = .next q ∧
      (s.lineFree line → s.answered t tag (.done 1) ∧ onLine t line ∧ onLine q line) ∧
      (line = .A → ¬ s.lineFree .A → s.lineFree .B → s.answered t tag (.done 1) ∧ onLine t .B ∧ onLine q .B) ∧
      (¬ s.lineFree line → line = .B ∨ ¬ s.lineFree .B → s.answered t tag (.done 0) ∧ refused t ∧ refused q)

/-! ## Chapter 7: call charging -/

/-- R135: the zone of a number: that of the longest prefix entry that matches, the lowest index of equals; 0 when none
matches. -/
def Sys2Proof.Claim.ZoneOfNumber : Prop :=
  ∀ (s : State) (number : List Symbol),
    let digits := number.filterMap fun x => match x with
      | .digit d => some d.val
      | _ => none
    let takesPart (i : Nat) : Prop := let e := s.prefixEntry i
      1 ≤ e.length ∧ e.length ≤ 12 ∧ (∀ d ∈ e.digits.take e.length, d ≤ 9) ∧ e.digits.take e.length <+: digits
    ((∀ i, i < 64 → ¬ takesPart i) → s.zoneOf number = 0) ∧
    ∀ i, i < 64 → takesPart i →
      (∀ k, k < 64 → k ≠ i → takesPart k →
        (s.prefixEntry k).length < (s.prefixEntry i).length ∨ ((s.prefixEntry k).length = (s.prefixEntry i).length ∧ i < k)) →
      (s.prefixEntry i).zone < 16 → s.zoneOf number = (s.prefixEntry i).zone

/-- R136: the band in force: that of the latest switch point of the day type at or before the time of day, the lowest
index of equals; 0 when there is none and while the clock is unset. -/
def Sys2Proof.Claim.BandInForce : Prop :=
  ∀ s : State,
    let c := s.clock.calendar
    let day := if c.weekday < 5 then 0 else if c.weekday = 5 then 1 else 2
    let point (i : Nat) : SwitchPoint := switchPoint (s.tableWord (bandPlace + 8 * day + i))
    let stands (i : Nat) : Prop := let p := point i
      p.enable = true ∧ p.hour ≤ 23 ∧ p.minute ≤ 59 ∧ 3600 * p.hour + 60 * p.minute ≤ 3600 * c.hour + 60 * c.minute + c.second
    let time (i : Nat) : Nat := 60 * (point i).hour + (point i).minute
    (s.clock.unset = true → s.bandNow = 0) ∧
    (s.clock.unset = false → (∀ i, i < 8 → ¬ stands i) → s.bandNow = 0) ∧
    ∀ i, s.clock.unset = false → i < 8 → stands i →
      (∀ k, k < 8 → k ≠ i → stands k → time k < time i ∨ (time k = time i ∧ i < k)) → s.bandNow = (point i).band

/-- R74, R85, R139, R142, R146: the answer event: the line is CONNECTED, the sending session starts, and the open record
takes its offset and its band; not metered it is charged the setup price and unit 1, each with its crossing test. The
tariff is as the answer's reads have brought it (`EventReads`, log 10); outside PROGRESS
nothing changes (log 6). -/
def Sys2Proof.Claim.AnswerDetected : Prop :=
  ∀ (line : Line) (s : State), Memory.wf s.mem = true → s.busInOrder →
    let u := s.line line
    let now := s.clock.now
    let u' : LineUnit := { u with state := .connected, timer := none, ctone := false, ctoneTimer := none }
    ∃ t, exec (.answerDetected line) s = .next t ∧
      (u.state ≠ .progress → s.untouched t) ∧
      (∀ c j i w r, u.state = .progress → s.quietReads → s.busQuiet → s.call line = some c → s.servesFor line j i w r →
        let a := s.rateReadsMade c
        let x : Session := { Session.powerOn with
          role := .sender, state := .waitIdent, position := r.pagesConfirmed + 1, identTimer := some (now + 60000000) }
        let v : State := { a with lines := s.lines.set line u', sessions := a.sessions.set line x }
        let band := a.bandNow
        let rate := a.rateOf c.zone band
        let c₀ : CallRecord := { c with
          answerOffset := some ((now - c.seizeAt) / 1000000), answerAt := some now, band := some band,
          timeUnset := c.timeUnset || s.clock.unset }
        let k := s.desk c.desk
        let k₁ := k.charged rate.setup
        let k₂ := k₁.charged rate.unit
        let c₁ := ({ c₀ with units := 1, nextDue := some (now + rate.period * 1000000) } : CallRecord).charged k rate.setup
        let rep (k : Desk) := crossReport c.desk k c.job (some line)
        let places := [linePlace line, sessionPlace line] ++ span (openPlace line) 16
        (c.metered = true → s.clock.unset = true → s.fits (.answerDetected line)) →
        t.settledAt (linePlace line) = statusLine u' ∧
        (c.metered = true →
          ({ v with charge := { s.charge with calls := s.charge.calls.set line (some c₀) } } : State).moves t places ∧
            t.showsAt (openPlace line) (callWords (some c₀))) ∧
        (c.metered = false → ¬ k₁.crosses → ¬ k₂.crosses →
          (v.withCall line (c₁.charged k₁ rate.unit) k₂).moves t (places ++ span (deskRecordPlace c.desk) 8) ∧
            t.showsAt (openPlace line) (callWords (some (c₁.charged k₁ rate.unit)))) ∧
        (c.metered = false →
          ((v.charged line { c₀ with units := 1, nextDue := some (now + rate.period * 1000000) } rate.setup).charged line c₁
            rate.unit).moves t (places ++ span (deskRecordPlace c.desk) 8 ++ s.reportPlaces (rep k₁) ++ s.reportPlaces (rep k₂))))

/-- R140, R143, R146: a unit due is charged at the rate of the band in force, and sets the next. The tariff is as
its reads, which are asked for at its instant, have brought it (`EventReads`, log 10); with no call
CONNECTED and no unit due nothing changes (log 6). -/
def Sys2Proof.Claim.UnitDue : Prop :=
  ∀ (line : Line) (s : State), Memory.wf s.mem = true → s.busInOrder →
    ∃ t, exec (.unitDue line) s = .next t ∧
      ((s.line line).state ≠ .connected ∨ (∀ c, s.call line = some c → c.nextDue = none) → s.untouched t) ∧
      ∀ c d, s.quietReads → s.busQuiet → (s.line line).state = .connected → s.call line = some c → c.metered = false →
        c.nextDue = some d →
        let v := ({ s with clock := { s.clock with now := max s.clock.now d } } : State).rateReadsMade c
        let rate := v.rateOf c.zone v.bandNow
        v.chargedAs t line
          { c with
            units := min 65535 (c.units + 1), nextDue := some (d + rate.period * 1000000),
            timeUnset := c.timeUnset || s.clock.unset } rate.unit

/-- R75, R142, R143, R146: a meter pulse of an outgoing call is counted, and priced when the call is metered and the
pulse raised the count. With no record open for the line it is counted, and nothing is charged. -/
def Sys2Proof.Claim.MeterPulse : Prop :=
  ∀ (line : Line) (presenceMs : Nat) (s : State), Memory.wf s.mem = true →
    let u := s.line line
    let n := min 65535 (u.pulses + 1)
    let counts := u.hook = true ∧ u.direction = some .outgoing ∧ 40 ≤ presenceMs ∧ presenceMs ≤ 200
    let counted : State := { s with lines := s.lines.set line { u with pulses := n } }
    ∃ t, exec (.meterPulse line presenceMs) s = .next t ∧
      (¬ counts → s.untouched t) ∧
      (counts → s.call line = none → counted.untouched t) ∧
      ∀ c, counts → s.call line = some c → s.fits (.meterPulse line presenceMs) →
        counted.chargedAs t line { c with pulses := n } (if c.metered = true ∧ u.pulses < 65535 then c.meterPrice else 0)

/-- R145, R146, R152: a host write of a desk's allowance or spent this month passes and is taken into the shadow, byte
by byte, with its crossing test; while the tariff is locked it is absorbed, whatever the port does. -/
def Sys2Proof.Claim.DeskFieldWrite : Prop :=
  ∀ (desk : Fin 32) (spent : Bool) (be : BitVec 4) (data : Word) (s : State), Memory.wf s.mem = true →
    s.path.held = none → s.path.atPort = none → be ≠ 0 → 1 ≤ s.path.straps.dramMiB →
    let place := deskRecordPlace desk.val + spent.toNat
    let w := s.path.straps.controlBase + place
    let k := s.desk desk.val
    let k' : Desk := if spent then { k with spent := mergeBytes k.spent be data }
      else { k with allowance := mergeBytes k.allowance be data }
    let rep := crossReport desk.val k' 0 none
    let v (x : Desk) : State := { s with
      mem := Memory.writeMasked s.mem w be data
      charge := { s.charge with desks := s.charge.desks.setIfInBounds desk.val x } }
    s.fits (.deskFieldWrite desk spent be data) → ∃ t, exec (.deskFieldWrite desk spent be data) s = .next t ∧
      (s.charge.locked = true → s.lockAbsorbs t w be) ∧
      (s.charge.locked = false → s.portFree →
        (¬ k'.crosses → (v k').moves t (span (deskRecordPlace desk.val) 8)) ∧
        (k'.crosses → ((v { k' with overReported := true }).reported rep).moves t
          (span (deskRecordPlace desk.val) 8 ++ s.reportPlaces rep)) ∧
        (k' ≠ k ∨ be ≠ 0b1111#4 → t.settledAt place = if spent then k'.spent else k'.allowance))

/-- R134, R151, R152: a host write of the tariff area passes while the tariff is unlocked, in its turn at the
port, and is absorbed by the lock. -/
def Sys2Proof.Claim.TariffWrite : Prop :=
  ∀ (addr : BitVec 24) (be : BitVec 4) (data : Word) (s : State), Memory.wf s.mem = true → s.path.held = none →
    s.path.atPort = none → be ≠ 0 → 4 ∣ addr.toNat → 1 ≤ s.path.straps.dramMiB →
    let d := s.path.straps.dramMiB * 1048576
    d - 65536 + 0x7400 ≤ addr.toNat → addr.toNat < d - 65536 + 0x7400 + 1192 →
    ∃ t, exec (.hostWrite addr be data) s = .next t ∧
      (s.charge.locked = false → s.passesInTurn t (addr.toNat / 4) be data) ∧
      (s.charge.locked = true → s.fits (.hostWrite addr be data) → s.lockAbsorbs t (addr.toNat / 4) be)

/-- R151: LOCK_TARIFF. -/
def Sys2Proof.Claim.LockTariff : Prop :=
  ∀ (tag : Tag) (s : State), s.takes →
    s.fits (.lockTariff tag) → ∃ t, exec (.lockTariff tag) s = .next t ∧
      (s.charge.locked = true → s.commandDone.moves t s.commandPlaces ∧ s.answered t tag (.done 1)) ∧
      (s.charge.locked = false →
        ({ s.commandDone with charge := { s.charge with locked := true, absorbedReported := false } } : State).moves t
            (s.commandPlaces ++ [statusPlace + 13]) ∧
          t.settledAt (statusPlace + 13) = statusTariff t.charge ∧ s.answered t tag (.done 0))

/-- R150: a host write of the call log consumer index passes and is taken by its distance; room that returns clears the
log-full flag, and in the state `u` that this leaves the dispatcher chooses again in the same event, and does what
DISPATCH_CHOICE does in that state; with no choice to make `u` is all. -/
def Sys2Proof.Claim.CallLogConsumerWrite : Prop :=
  ∀ (be : BitVec 4) (data : Word) (s : State), Memory.wf s.mem = true → s.path.held = none → be ≠ 0 →
    s.portFree → s.path.stalled = [] → 1 ≤ s.path.straps.dramMiB →
    let w := s.path.straps.controlBase + logConsumerPlace
    let mem := Memory.writeMasked s.mem w be data
    let c := s.charge
    let consumer := consumerAs c.logProducer c.logConsumer ((Memory.readWord mem w).extractLsb' 0 16)
    let back := 128 ≤ c.unconsumed + c.openCount ∧ (c.logProducer - consumer).toNat + c.openCount < 128
    let v : State := { s with mem := mem, charge := { c with logConsumer := consumer } }
    let cleared (u : State) : Prop :=
      u.settledAt (statusPlace + 12) = statusLog u.charge ∧
        ({ v with dispatch := { s.dispatch with logFull := false } } : State).moves u [statusPlace + 12, statusPlace + 11]
    s.fits (.callLogConsumerWrite be data) → ∃ t, exec (.callLogConsumerWrite be data) s = .next t ∧
      (¬ back → t.settledAt (statusPlace + 12) = statusLog t.charge ∧ v.moves t [statusPlace + 12]) ∧
      (back → ∃ u, cleared u ∧ exec .dispatchChoice u = .next t) ∧
      (back → s.dispatch.asked ≠ none ∨ (∀ l, ¬ s.lineFree l) ∨ (∀ j i x r, ¬ s.eligible j i x r) → cleared t)

/-! ## Chapter 8: the clock -/

/-- R155, R156: what a second brings: the carries of the calendar, with its minute and month rollovers. -/
def Sys2Proof.Claim.CalendarAdvance : Prop :=
  ∀ c : Calendar,
    let last := if c.month = 2 then (if c.year % 4 = 0 then 29 else 28)
      else if c.month = 4 ∨ c.month = 6 ∨ c.month = 9 ∨ c.month = 11 then 30 else 31
    let midnight (d : Calendar) : Calendar := { d with hour := 0, minute := 0, second := 0, weekday := (c.weekday + 1) % 7 }
    (c.second < 59 → c.advance = ⟨{ c with second := c.second + 1 }, false, false⟩) ∧
    (c.second = 59 → c.minute < 59 → c.advance = ⟨{ c with second := 0, minute := c.minute + 1 }, true, false⟩) ∧
    (c.second = 59 → c.minute = 59 → c.hour < 23 →
      c.advance = ⟨{ c with second := 0, minute := 0, hour := c.hour + 1 }, true, false⟩) ∧
    (c.second = 59 → c.minute = 59 → c.hour = 23 →
      (c.day < last → c.advance = ⟨midnight { c with day := c.day + 1 }, true, false⟩) ∧
      (c.day = last → c.month < 12 → c.advance = ⟨midnight { c with day := 1, month := c.month + 1 }, true, true⟩) ∧
      (c.day = last → c.month = 12 →
        c.advance = ⟨midnight { c with day := 1, month := 1, year := if c.year = 2099 then 2000 else c.year + 1 }, true, true⟩))

/-- R160, R156: the weekday of a date: 2000-01-01 is 5, and it rises by 1, modulo 7, at each day the calendar advances
to, up to 2099-12-31. -/
def Sys2Proof.Claim.Weekdays : Prop :=
  weekdayOf 2000 1 1 = 5 ∧
  ∀ c : Calendar, 2000 ≤ c.year → c.year ≤ 2099 → 1 ≤ c.month → c.month ≤ 12 → 1 ≤ c.day → c.day ≤ daysInMonth c.year c.month →
    ¬ (c.year = 2099 ∧ c.month = 12 ∧ c.day = 31) →
    weekdayOf c.nextDay.1.year c.nextDay.1.month c.nextDay.1.day = (weekdayOf c.year c.month c.day + 1) % 7

/-- R160: SET_CLOCK: its tests in order, the calendar with its weekday, and the clock record. -/
def Sys2Proof.Claim.SetClock : Prop :=
  ∀ (tag : Tag) (year month day hour : Word) (minute second : Byte) (s : State), s.takes →
    let y := year.toNat
    let m := month.toNat
    let last := if m = 2 then (if y % 4 = 0 then 29 else 28)
      else if m = 4 ∨ m = 6 ∨ m = 9 ∨ m = 11 then 30 else 31
    let valid := 2000 ≤ y ∧ y ≤ 2099 ∧ 1 ≤ m ∧ m ≤ 12 ∧ 1 ≤ day.toNat ∧ day.toNat ≤ last ∧ hour.toNat ≤ 23 ∧
      minute.toNat ≤ 59 ∧ second.toNat ≤ 59
    let weekday := weekdayOf y m day.toNat
    let c : Clock := { s.clock with
      calendar := ⟨y, m, day.toNat, weekday, hour.toNat, minute.toNat, second.toNat⟩, subSecond := 0, unset := false,
      moved := s.clock.moved || s.clock.readOpen, counted := s.clock.now }
    s.fits (.setClock tag year month day hour minute second) →
    ∃ t, exec (.setClock tag year month day hour minute second) s = .next t ∧
      (¬ valid → s.refusedWith t tag .badArgument) ∧
      (valid → s.clock.stopped = true → s.refusedWith t tag .state) ∧
      (valid → s.clock.stopped = false →
        ({ s.commandDone with clock := c } : State).moves t (s.commandPlaces ++ span clockPlace 4) ∧
          (s.clock.readOpen = true → t.clock.moved = true) ∧
          t.showsAt clockPlace (clockWords c) ∧ s.answered t tag (.done (BitVec.ofNat 32 weekday)))

/-- R155, R147, R164: a second advance: nothing with the crystal stopped; else the calendar, and with the clock set the
month close at a month rollover, when no timetable entry matches. At a minute rollover of a set clock the timetable is as
its reads have brought it (`EventReads`, log 10). -/
def Sys2Proof.Claim.SecondAdvance : Prop :=
  ∀ s : State, Memory.wf s.mem = true → s.busInOrder →
    let a := s.clock.calendar.advance
    let c : Clock := { s.clock with calendar := a.calendar, subSecond := 0, counted := s.clock.now }
    let v := if s.clock.unset = false ∧ a.minute = true then s.readNow s.advanceDesks .clock timetableReads else s
    let quiet := ∀ i, i < 32 → (v.timetableEntry i).matches a.calendar = false
    let run : Clock := { c with moved := v.clock.moved }
    let rep : Report := { kind := .monthClosed, value1 := some a.calendar.year, value2 := some a.calendar.month }
    let deskPlaces := (List.range 32).flatMap fun d => span (deskRecordPlace d) 8
    ∃ t, exec .secondAdvance s = .next t ∧
      (s.clock.stopped = true → s.untouched t) ∧
      (s.clock.stopped = false → s.busQuiet → s.quietReads →
        (s.clock.unset = true ∨ a.minute = false → s.fits .secondAdvance) →
        t.showsAt clockPlace (clockWords c) ∧
        (s.clock.unset = true ∨ (a.month = false ∧ (a.minute = false ∨ quiet)) →
          ({ v with clock := run } : State).moves t (span clockPlace 4)) ∧
        (s.clock.unset = false → a.month = true → a.minute = true → quiet →
          (({ v with
              clock := run
              charge := { s.charge with desks := s.charge.desks.map fun k =>
                { k with spentLast := k.spent, spent := 0, calls := 0, overReported := false } } } : State).reported rep).moves t
            (span clockPlace 4 ++ deskPlaces ++ s.reportPlaces rep) ∧
          ∀ d, d < 32 → t.showsAt (deskRecordPlace d) (deskWords (t.desk d))))

/-- R163 to R165: at a minute rollover of a set clock the one entry that matches fires: RELEASE_JOB of a HELD job,
LINE_MODE of a fitted line with another mode, PRINT_MODE of another mode (here with nothing to start); each with its
report. That the report of a RELEASE_JOB whose job number is above 16 names the entry's own number is the model's choice (log
23). The timetable is as its reads have brought it (`EventReads`, log 10). -/
def Sys2Proof.Claim.TimetableFires : Prop :=
  ∀ (s : State) (i : Nat), Memory.wf s.mem = true → s.quietReads → s.busQuiet → s.clock.stopped = false → s.clock.unset = false →
    s.clock.calendar.advance.minute = true → s.clock.calendar.advance.month = false → i < 32 →
    let a := s.readNow s.advanceDesks .clock timetableReads
    (∀ k, k < 32 → ((a.timetableEntry k).matches s.clock.calendar.advance.calendar = true ↔ k = i)) →
    let e := a.timetableEntry i
    let v : State := { a with clock := { a.clock with
      calendar := s.clock.calendar.advance.calendar, subSecond := 0, counted := s.clock.now } }
    let rep (job : Nat) (l : Option Line) (result : Nat) : Report :=
      { kind := .timetableFired, job := job, line := l, value1 := some i, value2 := some result }
    ∃ t, exec .secondAdvance s = .next t ∧
      (∀ x, e.action = 0 → s.job e.arg = some x → x.state = .held →
        ((v.withJobRecord e.arg (some { x with state := .ready })).reported (rep e.arg none 0)).moves t
          (span clockPlace 4 ++ jobPlaces e.arg ++ s.reportPlaces (rep e.arg none 0))) ∧
      (e.action = 0 → (∀ x, s.job e.arg = some x → x.state ≠ .held) →
        (v.reported (rep e.arg none 1)).moves t (span clockPlace 4 ++ s.reportPlaces (rep e.arg none 1))) ∧
      (∀ (l : Line) (m : LineMode), e.action = 1 → e.arg = lineCode l → e.lineMode = m.code →
        let x := (s.line l).settings
        (s.fitted l = true → x.mode ≠ m →
          (({ v with lines := s.lines.set l { s.line l with settings := { x with mode := m } } } : State).reported
            (rep 0 (some l) 0)).moves t
            (span clockPlace 4 ++ [statusPlace + 7 + lineCode l] ++ s.reportPlaces (rep 0 (some l) 0))) ∧
        (s.fitted l = false ∨ x.mode = m →
          (v.reported (rep 0 (some l) 1)).moves t (span clockPlace 4 ++ s.reportPlaces (rep 0 (some l) 1)))) ∧
      (∀ m : PrintMode, e.action = 2 → e.arg = m.code → s.render.rendering = true ∨ s.render.queue = [] ∨ m = .hold →
        (s.render.mode ≠ m →
          (({ v with render := { a.render with mode := m } } : State).reported (rep 0 none 0)).moves t
            (span clockPlace 4 ++ [statusPlace + 4] ++ s.reportPlaces (rep 0 none 0))) ∧
        (s.render.mode = m →
          (v.reported (rep 0 none 1)).moves t (span clockPlace 4 ++ s.reportPlaces (rep 0 none 1))))

/-- R164, R165: every entry that matches fires, in index order, each acting on what the one before it left, with a report
for each, APPLIED or not; an argument that names no job, line or mode is not applied. That the report of a LINE_MODE whose
line code names neither line names no line, and that of a RELEASE_JOB whose job number is above 16 the entry's own number, is
the model's choice (log 23). A PRINT_MODE of RUN is said here where no page
starts. The timetable is as its reads have brought it (`EventReads`, log 10). -/
def Sys2Proof.Claim.TimetableFiresInOrder : Prop :=
  ∀ s : State, Memory.wf s.mem = true → s.quietReads → s.busQuiet → s.clock.stopped = false → s.clock.unset = false →
    s.clock.calendar.advance.minute = true → s.clock.calendar.advance.month = false →
    let now := s.clock.calendar.advance.calendar
    let a := s.readNow s.advanceDesks .clock timetableReads
    let entries := ((List.range 32).map fun i => (i, a.timetableEntry i)).filter fun p => p.2.matches now
    (∀ p ∈ entries, p.2.action = 2 → p.2.arg = 0 → s.render.rendering = true ∨ s.render.queue = []) →
    let v : State := { a with clock := { a.clock with calendar := now, subSecond := 0, counted := s.clock.now } }
    let fired := v.firedAll entries (span clockPlace 4)
    ∃ t, exec .secondAdvance s = .next t ∧ fired.1.moves t fired.2

/-- R166, R147, R124: at a month rollover whose matching entries all release one HELD NORMAL job, with one recipient, a line
free and its desk at or over its allowance: the month of the desk closes, and either the close was first, so that the job is
READY and its recipient waits for a choice that finds the new month, or the choice was first and the recipient has FAILED at a
gate, BARRED or DESK_LIMIT. A free value says which (log 29). -/
def Sys2Proof.Claim.MonthTurns : Prop :=
  ∀ (s : State) (j : Nat) (x : Job) (r : Recipient) (line : Line), Memory.wf s.mem = true → s.quietReads → s.busQuiet →
    s.clock.stopped = false → s.clock.unset = false → s.clock.calendar.advance.month = true → s.job j = some x →
    x.state = .held → x.priority = .normal → x.recipients = [r] → r.state = .waiting → r.nextTry ≤ s.clock.uptime → x.desk < 32 →
    (s.desk x.desk).allowance ≠ 0 → (s.desk x.desk).allowance ≤ (s.desk x.desk).spent → s.dispatch.asked = none →
    s.lineFree line → (∀ j' i' x' r', ¬ s.eligible j' i' x' r') →
    let entry := (s.readNow s.advanceDesks .clock timetableReads).timetableEntry
    let fires (k : Nat) := (entry k).matches s.clock.calendar.advance.calendar = true
    (∃ k, k < 32 ∧ fires k) → (∀ k, k < 32 → fires k → (entry k).action = 0 ∧ (entry k).arg = j) →
    ∃ t, exec .secondAdvance s = .next t ∧ t.clock.calendar = s.clock.calendar.advance.calendar ∧
      t.desk x.desk = { s.desk x.desk with spentLast := (s.desk x.desk).spent, spent := 0, calls := 0, overReported := false } ∧
      ((t.job j = some { x with state := .ready } ∧ t.recipient j 0 = some r) ∨
        ∃ cause, (cause = .barred ∨ cause = .deskLimit) ∧
          t.recipient j 0 = some { r with state := .failed, lastCause := some cause })

/-- R157, R158: uptime, which stays at 2147483647; the crystal's stop, 50 ms after its last edge, and run events. The instant
of that edge follows from the count and the crystal's rate (log 26). A stop while stopped and a run while
running change nothing (log 6); a run event whose count passes 32767 makes its second advance in the event (log 26). -/
def Sys2Proof.Claim.ClockEvents : Prop :=
  ∀ (s : State) (sub : BitVec 15), Memory.wf s.mem = true → s.busInOrder →
    let up : Clock := { s.clock with
      now := max s.clock.now ((s.clock.uptime + 1) * 10000000), uptime := s.clock.uptime + 1 }
    let edge := s.clock.counted + (sub.toNat - s.clock.subSecond) * 10000000 / 32768
    let stop : Clock := { s.clock with
      now := max s.clock.now (edge + 500000), stopped := true, unset := true, subSecond := sub.toNat }
    let run : Clock := { s.clock with stopped := false, subSecond := s.clock.subSecond + 1, counted := s.clock.now }
    let passed : Clock := { s.clock with
      stopped := false, calendar := s.clock.calendar.advance.calendar, subSecond := 0, counted := s.clock.now }
    let rep : Report := { kind := .clockStopped }
    (s.fits .uptimeAdvance → ∃ t, exec .uptimeAdvance s = .next t ∧
      (s.clock.uptime < 2147483647 →
        ({ s with clock := up } : State).moves t (span clockPlace 4) ∧ t.showsAt clockPlace (clockWords up)) ∧
      (2147483647 ≤ s.clock.uptime → t.clock.uptime = s.clock.uptime)) ∧
    (s.fits (.crystalStop sub) → ∃ t, exec (.crystalStop sub) s = .next t ∧
      (s.clock.stopped = true → s.untouched t) ∧
      (s.clock.stopped = false →
        (({ s with clock := stop } : State).reported rep).moves t (span clockPlace 4 ++ s.reportPlaces rep) ∧
          t.showsAt clockPlace (clockWords stop))) ∧
    ∃ t, exec .crystalRun s = .next t ∧
      (s.clock.stopped = false → s.untouched t) ∧
      (s.clock.stopped = true → s.clock.subSecond < 32767 → s.fits .crystalRun →
        ({ s with clock := run } : State).moves t (span clockPlace 4) ∧ t.showsAt clockPlace (clockWords run)) ∧
      (s.clock.stopped = true → 32767 ≤ s.clock.subSecond → s.clock.unset = true → s.fits .crystalRun →
        ({ s with clock := passed } : State).moves t (span clockPlace 4) ∧ t.showsAt clockPlace (clockWords passed))

/-- R162: the read of clock word 0 opens the straddle; the read of word 3 returns the moved field and closes it (here
at a free port; `BusWaits` says when they wait). -/
def Sys2Proof.Claim.ClockReads : Prop :=
  ∀ s : State, s.path.held = none → s.portFree → 1 ≤ s.path.straps.dramMiB →
    let base := s.path.straps.controlBase + clockPlace
    let w := Memory.readWord s.mem (base + 3)
    let moved := decide (s.clock.readOpen = false) || s.clock.moved
    (∃ t, exec .clockWord0Read s = .next t ∧
      ({ s with
          path := { s.path with readData := mergeBytes s.path.readData 0b1111#4 (Memory.readWord s.mem base) }
          clock := { s.clock with readOpen := true, moved := false } } : State).Alike t ∧
      t.clock.moved = false ∧ t.mem = s.mem ∧ s.samePostings t) ∧
    ∃ t, exec .clockWord3Read s = .next t ∧
      t.path.readData.toNat = w.toNat % 2147483648 + (if moved then 2147483648 else 0) ∧
      ({ s with path := { s.path with readData := t.path.readData }, clock := { s.clock with readOpen := false } } : State).untouched
        t

/-! ## Chapter 10: reports and the line guard -/

/-- R187: SET_ATTN, and the ATTN output by mode. -/
def Sys2Proof.Claim.SetAttn : Prop :=
  ∀ (tag : Tag) (mode mask : Word) (s : State), s.takes →
    s.fits (.setAttn tag mode mask) → ∃ t, exec (.setAttn tag mode mask) s = .next t ∧
      (2 < mode.toNat → s.refusedWith t tag .badArgument) ∧
      ∀ m : AttnMode, mode.toNat = m.code →
        ({ s.commandDone with report := { s.report with mode := m, mask := mask.extractLsb' 0 5, pulse := none } } : State).moves t
            (s.commandPlaces ++ [statusPlace + 15]) ∧
          t.settledAt (statusPlace + 15) = statusReport t.report ∧ s.answered t tag (.done 0) ∧
          (t.report.attn = true ↔ m = .level ∧ 0 < s.report.unconsumed)

/-- R187: the 2 µs of a pulse end, and ATTN is released in PULSE. -/
def Sys2Proof.Claim.AttnPulseEnd : Prop :=
  ∀ s : State, ∃ t, exec .attnPulseEnd s = .next t ∧
    ({ s with report := { s.report with pulse := none }, clock := { s.clock with now := s.dueAt s.report.pulse } } :
      State).untouched t ∧
    (s.report.mode = .pulse → t.report.attn = false)

/-- R186: a host write of the report consumer index passes and is taken by its distance; OVERFLOW is cleared when it
makes room. -/
def Sys2Proof.Claim.ReportConsumerWrite : Prop :=
  ∀ (be : BitVec 4) (data : Word) (s : State), Memory.wf s.mem = true → s.path.held = none → be ≠ 0 →
    s.portFree → 1 ≤ s.path.straps.dramMiB →
    let w := s.path.straps.controlBase + reportConsumerPlace
    let mem := Memory.writeMasked s.mem w be data
    let r := s.report
    let consumer := consumerAs r.producer r.consumer ((Memory.readWord mem w).extractLsb' 0 16)
    s.fits (.reportConsumerWrite be data) → ∃ t, exec (.reportConsumerWrite be data) s = .next t ∧
      ({ s with
          mem := mem
          report := { r with
            consumer := consumer, overflow := r.overflow && decide (64 ≤ (r.producer - consumer).toNat) } } : State).moves t
        [statusPlace + 15] ∧
      t.settledAt (statusPlace + 15) = statusReport t.report

/-- R189, R191: ENABLE_GUARD acts once in a power-on period; CLEAR_GUARD_FLAG. -/
def Sys2Proof.Claim.GuardCommands : Prop :=
  ∀ (tag : Tag) (period : Word) (s : State), s.takes →
    let n := max 1 (min period.toNat 60)
    let offHook := (s.line .A).hook || (s.line .B).hook
    (s.fits (.enableGuard tag period) → ∃ t, exec (.enableGuard tag period) s = .next t ∧
      (s.guard.taken = true → s.commandDone.moves t s.commandPlaces ∧ s.answered t tag (.done 0)) ∧
      (s.guard.taken = false →
        ({ s.commandDone with guard := { s.guard with
            enable := true, period := some n, taken := true, expected := 1,
            deadline := if offHook then some (s.clock.now + n * 10000000) else none } } : State).moves t
          (s.commandPlaces ++ [statusPlace + 16]) ∧
        t.settledAt (statusPlace + 16) = statusGuard t.guard ∧ s.answered t tag (.done (BitVec.ofNat 32 n)))) ∧
    (s.fits (.clearGuardFlag tag) → ∃ t, exec (.clearGuardFlag tag) s = .next t ∧
      (s.guard.expired = false → s.commandDone.moves t s.commandPlaces ∧ s.answered t tag (.done 0)) ∧
      (s.guard.expired = true →
        ({ s.commandDone with guard := { s.guard with expired := false } } : State).moves t
            (s.commandPlaces ++ [statusPlace + 16]) ∧
          t.settledAt (statusPlace + 16) = statusGuard t.guard ∧ s.answered t tag (.done 1)))

/-- R190: a host write of the guard word passes; it is a kick when the guard is enabled, it enables four bytes and it
holds the expected value. -/
def Sys2Proof.Claim.GuardKick : Prop :=
  ∀ (be : BitVec 4) (data : Word) (s : State), Memory.wf s.mem = true → s.path.held = none → be ≠ 0 →
    s.portFree → 1 ≤ s.path.straps.dramMiB →
    let w := s.path.straps.controlBase + guardPlace
    let kick := s.guard.enable = true ∧ be = 0b1111#4 ∧ data.toNat = s.guard.expected
    let offHook := (s.line .A).hook || (s.line .B).hook
    ∃ t, exec (.guardKick be data) s = .next t ∧
      (¬ kick → s.passesOnly t w be data) ∧
      (kick → s.fits (.guardKick be data) →
        ({ s with
            mem := Memory.writeMasked s.mem w be data
            guard := { s.guard with
              expected := 3 - s.guard.expected
              deadline := if offHook then some (s.clock.now + (s.guard.period.getD 0) * 10000000) else none } } : State).moves t
          [statusPlace + 16] ∧
        t.settledAt (statusPlace + 16) = statusGuard t.guard)

/-- R191, R81, R105, R128: the guard expires: every off-hook call ends with GUARD, the recipient it served is settled, a
receiving session aborts its FILLING page and hands RECEIVE_END, the flag is set, and GUARD_EXPIRED is reported, with the
count of the lines that were off-hook, after what the ends report: it is the last report of the event (each line's end hands
over three at most). The flag is set by the expiry whichever of it and a call end is taken first. That RECEIVE_END of line A
stands before that of line B is the model's choice (log 28). -/
def Sys2Proof.Claim.GuardExpiry : Prop :=
  ∀ (s : State) (d : Nat), Memory.wf s.mem = true → s.guard.deadline = some d →
    let now := max s.clock.now d
    let n := (s.line .A).hook.toNat + (s.line .B).hook.toNat
    let rep : Report := { kind := .guardExpired, value1 := some (s.guard.period.getD 0), value2 := some n }
    let at_ : State := { s with clock := { s.clock with now := now } }
    let receiving (l : Line) : Prop :=
      (s.line l).state = .connected ∧ (s.line l).direction = some .incoming ∧ (s.session l).role = .receiver
    s.fits .guardExpiry →
    ∃ t, exec .guardExpiry s = .next t ∧ t.guard = { s.guard with expired := true, deadline := none } ∧
      t.settledAt (statusPlace + 16) = statusGuard t.guard ∧ t.clock.now = now ∧
      (∀ l, (s.line l).hook = true → t.line l = (s.line l).ended .guard now ∧
        t.settledAt (linePlace l) = statusLine (t.line l) ∧
        ((s.line l).direction = some .outgoing → t.call l = none ∧ t.dispatch.serving.get l = none)) ∧
      (∀ l, (s.line l).hook = false → t.line l = s.line l ∧ t.session l = s.session l ∧ t.call l = s.call l) ∧
      (∀ l j i x r, (s.line l).hook = true → (s.line l).direction = some .outgoing → s.servesFor l j i x r →
        s.dispatch.serving.get (Line.other l) ≠ some (j, i) → r.state = .onLine →
        t.recipient j i = some (r.afterCall x .guard (if (s.session l).role = .sender then (s.session l).negotiated else 0)
          s.clock.uptime)) ∧
      (∀ l p, receiving l → (s.session l).page ≠ 0 → s.page (s.session l).page = some p →
        t.page (s.session l).page = none ∧ t.showsAt (pagePlace (s.session l).page) (pageWords none)) ∧
      (∀ l, receiving l → (s.line (Line.other l)).hook = false →
        (∀ p, (s.session l).page ≠ 0 → s.page (s.session l).page = some p → t.store.free = s.store.free ++ p.chain) ∧
          ((s.session l).page = 0 → t.store = s.store) ∧ s.reportStands t (s.receiveEnd l .guard) ∧
          t.report = ((at_.reported (s.receiveEnd l .guard)).reported rep).report) ∧
      (receiving .A → receiving .B → s.reportStands t (s.receiveEnd .A .guard) ∧
        (at_.reported (s.receiveEnd .A .guard)).reportStands t (s.receiveEnd .B .guard) ∧
        t.report = (((at_.reported (s.receiveEnd .A .guard)).reported (s.receiveEnd .B .guard)).reported rep).report) ∧
      (s.report.mask.getLsbD rep.kind.cls = true → s.report.unconsumed < 58 →
        ∃ q, t.report.sequence = (if q = 4294967295 then 1 else q + 1) ∧
          t.showsAt (reportPlace ((t.report.producer - 1).toNat % 64)) (reportWords q s.clock.uptime s.clock.calendar rep) ∧
          t.settledAt reportProducerPlace = t.report.producer.setWidth 32) ∧
      (n = 0 →
        (({ s with guard := t.guard, clock := { s.clock with now := now } } : State).reported rep).moves t
          ([statusPlace + 16] ++ s.reportPlaces rep))

/-- R22, R36, R59, R82, R110, R133, R151, R167, R175, R184, R188, R192: the host reset: what it ends, what it clears and
what it keeps. The order of its parts is the model's choice (log 28); that a word of the bus at the port, with the words
behind it, is made after the reset (log 14); and the fields of a context that has ended which its rule does not give: of a
session (log 34), the line numbers of the capture slots (log 20), the rest of the capture context (log 43), and the render
context (log 37). -/
def Sys2Proof.Claim.HostReset : Prop :=
  ∀ s : State, Memory.wf s.mem = true →
    s.fits .hostReset → ∃ t, exec .hostReset s = .next t ∧ t.path.straps = s.path.straps ∧ t.path.regions = s.path.regions ∧
      t.path.holdLimit = s.path.holdLimit ∧ t.path.held = none ∧ t.path.atPort = s.path.atPort ∧
      (s.path.atPort = none → t.path.stalled = []) ∧
      (∀ w be since, s.path.held = some ⟨.read w be, since⟩ → t.path.readData = mergeBytes s.path.readData be 0) ∧
      -- R175: the poster's request is kept, the engines' requests are dropped; those that stand have been made anew
      (∀ since, s.path.headHanded = false → s.path.requests.poster = some since → t.path.requests.poster = some since) ∧
      t.path.requests.coder = none ∧
      (∀ since, t.path.requests.decoder = some since ∨ t.path.requests.sessionA = some since ∨
        t.path.requests.sessionB = some since → since = s.clock.now) ∧
      t.coder = Coder.powerOn ∧
      -- R22: FILLING pages are aborted, COMPLETE pages kept while a hold of theirs is left
      (∀ n p, s.page n = some p → p.complete = false → t.page n = none) ∧
      (∀ n p, s.page n = some p → p.complete = true →
        p.keepHold = true ∨ (p.printHold = true ∧ 0 < p.lineCount) ∨
          (p.sendHold = true ∧ ∀ l, ¬ ((s.line l).hook = true ∧ (s.line l).direction = some .outgoing)) →
        ∃ q, t.page n = some q ∧ q.complete = true ∧ q.chain = p.chain ∧ q.lineCount = p.lineCount ∧ q.codeBytes = p.codeBytes) ∧
      t.store.total = s.store.total ∧ t.store.reserve = s.store.reserve ∧
      -- R59: the print queue is kept, and its head page starts again in RUN
      t.render.mode = s.render.mode ∧ t.render.width = s.render.width ∧
      (s.render.mode = .hold ∨ s.render.queue = [] → t.render = { s.render.idled with queue := s.render.queue, writes := [] }) ∧
      (∀ n rest p, s.render.mode = .run → s.render.queue = n :: rest → s.page n = some p → p.complete = true →
        p.printHold = true → 0 < p.lineCount → t.render = { s.render.started n p with writes := [] }) ∧
      -- R82, R110: off-hook calls end with RESET, and with them their sessions
      (∀ l, (s.line l).hook = true → t.line l = (s.line l).ended .reset s.clock.now) ∧
      (∀ l, (s.line l).hook = false → t.line l = s.line l) ∧ t.stationId = s.stationId ∧
      (∀ l, (s.line l).state = .connected → (s.session l).role ≠ .none → t.session l = Session.powerOn) ∧
      (∀ l, (s.line l).hook = true → (s.line l).direction = some .outgoing → t.call l = none ∧ t.dispatch.serving.get l = none) ∧
      -- R133: the recipients that served are settled
      (∀ l j i x r, (s.line l).hook = true → (s.line l).direction = some .outgoing → s.servesFor l j i x r →
        s.dispatch.serving.get (Line.other l) ≠ some (j, i) → r.state = .onLine →
        t.recipient j i = some (r.afterCall x .reset (if (s.session l).role = .sender then (s.session l).negotiated else 0)
          s.clock.uptime)) ∧
      t.dispatch.submitSeq = s.dispatch.submitSeq ∧ t.dispatch.logFull = false ∧ t.dispatch.asked = none ∧
      t.charge.desks = s.charge.desks ∧ t.charge.logConsumer = s.charge.logConsumer ∧ t.charge.callSeq = s.charge.callSeq ∧
      t.charge.locked = false ∧ t.charge.absorbedReported = false ∧
      t.clock = { s.clock with readOpen := false, moved := false } ∧ t.command = CommandUnit.powerOn ∧
      t.report = { s.report with
        producer := 1, consumer := 0, sequence := 2, overflow := false
        pulse := if s.report.mode = .pulse then some (s.clock.now + 20) else none } ∧
      t.guard = { s.guard with expected := 1, deadline := none } ∧
      t.showsAt (reportPlace 0)
        (reportWords 1 s.clock.uptime s.clock.calendar (restartedReport .hostReset s.path.straps)) ∧
      t.settledAt reportProducerPlace = 1 ∧ t.settledAt reportConsumerPlace = 0 ∧ t.settledAt commandProducerPlace = 0

/-! ## What the host reset keeps of two settings -/

/-- R6: the reserve is 32 at power-on, SET_RESERVE and SET_REGIONS set it (as a row of the command, or as the entry that
another row takes when its words arrive while an event waits, logs 9 and 10), and nothing else changes it: the host reset
keeps it. An entry is taken in a row other than its own only where a read of an entry is under way, or a word of the bus
waits that may ask for one. -/
def Sys2Proof.Claim.ReserveKept : Prop :=
  (∀ straps, (State.powerOn straps).store.reserve = 32) ∧
  (∀ s, ∃ t, exec .hostReset s = .next t ∧ t.store.reserve = s.store.reserve) ∧
  ∀ (c : Instr) (s t : State), exec c s = .next t → t.store.reserve = s.store.reserve ∨
    ((mayTakeEntry c = true ∨ ¬ s.fits c) ∧ ¬ (s.quietReads ∧ s.busQuiet)) ∨
    (∃ tag n, c = .setReserve tag n) ∨ (∃ tag sb len cb rb limit, c = .setRegions tag sb len cb rb limit) ∨
    ∃ pins two forced, c = .powerOnReset pins two forced

/-- R47, R48: RUN and 2048 at power-on; the host reset keeps the mode and the width. -/
def Sys2Proof.Claim.PrintSettingsKept : Prop :=
  (∀ straps, (State.powerOn straps).render.mode = .run ∧ (State.powerOn straps).render.width = 2048) ∧
  ∀ s, ∃ t, exec .hostReset s = .next t ∧ t.render.mode = s.render.mode ∧ t.render.width = s.render.width

/-- The invariants hold right after a power-on. -/
def Sys2Proof.Claim.PowerOnInvariants : Prop :=
  ∀ straps : Straps, let s := State.powerOn straps
    s.store.total = 0 ∧ s.store.blocksHeld = 0 ∧ s.store.conserves ∧ s.render.queue.length ≤ 64 ∧
      s.path.postings.length ≤ 128 ∧ s.path.waiting = [] ∧ s.regionsSound

/-- R180: the straps that a power-on latches have at least 1 MiB. -/
def Sys2Proof.Claim.StrapsFitDram : Prop := ∀ pins two forced, 1 ≤ (Straps.latch pins two forced).dramMiB

/-! ## The obligations -/

/-- A step runs the command at the front of the queue; on an empty queue the main clock moves by one unit. -/
def Obligations.StepTakesTheFront : Prop :=
  Sys2Proof.Claim.StepRunsTheFrontCommand ∧ Sys2Proof.Claim.EmptyQueueIdles

/-- Every row answers a next state in every state and leaves the queue alone. -/
def Obligations.EveryRowAnswers : Prop :=
  Sys2Proof.Claim.EveryRowAnswers

/-- POWER_ON_RESET: the registers, the records in DRAM, and the invariants at power-on. -/
def Obligations.PowerOnState : Prop :=
  Sys2Proof.Claim.PowerOnRegisters ∧ Sys2Proof.Claim.PowerOnReset ∧ Sys2Proof.Claim.PowerOnRecords ∧
    Sys2Proof.Claim.PowerOnMemoryCanonical ∧ Sys2Proof.Claim.PowerOnInvariants ∧ Sys2Proof.Claim.StrapsFitDram

/-- Every step keeps the canonical form of the memory. -/
def Obligations.MemoryStaysCanonical : Prop :=
  Sys2Proof.Claim.MemoryStaysCanonical

/-- The free chain plus the blocks of all pages is the store total, after every step. -/
def Obligations.BlocksConserved : Prop :=
  Sys2Proof.Claim.BlocksConserved ∧ Sys2Proof.Claim.PowerOnInvariants

/-- The print queue, the posting list, the regions and the DRAM size stay within their bounds. -/
def Obligations.BoundsStay : Prop :=
  Sys2Proof.Claim.PrintQueueBounded ∧ Sys2Proof.Claim.PostingListBounded ∧
    Sys2Proof.Claim.RegionsStaySound ∧ Sys2Proof.Claim.DramFitted

/-- The straps change at power-on only; uptime at power-on and at its advance only. -/
def Obligations.WhatOnlyResetsChange : Prop :=
  Sys2Proof.Claim.StrapsLatchedOnce ∧ Sys2Proof.Claim.UptimeOnlyAtItsAdvance

/-- A frame read from the bytes sent is the frame sent. -/
def Obligations.FrameBytesRoundTrip : Prop :=
  Sys2Proof.Claim.FrameBytesRoundTrip

/-- The band code: a coded line reads back as that line, and packing into bytes loses no bit. -/
def Obligations.BandCodeRoundTrip : Prop :=
  Sys2Proof.Claim.BandCodeRoundTrip ∧ Sys2Proof.Claim.CodeBitsPacked

/-- Posting a word, POSTING_WRITE of a word, the reads of an event, and the event that waits for room in the list. -/
def Obligations.Postings : Prop :=
  Sys2Proof.Claim.PostingSettles ∧ Sys2Proof.Claim.PostingWriteWord ∧ Sys2Proof.Claim.EventReads ∧
    Sys2Proof.Claim.PostingWaitsForRoom ∧ Sys2Proof.Claim.EventWaitsForRoom

/-- The command ring: the producer index, the taking of an entry of any kind, unknown kinds, withdrawn reads. -/
def Obligations.CommandRing : Prop :=
  Sys2Proof.Claim.CommandProducerWrite ∧ Sys2Proof.Claim.CommandReadDiscarded ∧
    Sys2Proof.Claim.PostingWriteTakesEntry ∧ Sys2Proof.Claim.UnknownKindRefused ∧ Sys2Proof.Claim.EntryNotTaken

/-- A report handed to the report unit is masked, dropped with OVERFLOW, or written into the ring. -/
def Obligations.ReportHanded : Prop :=
  Sys2Proof.Claim.ReportHanded

/-- KEEP_PAGE and RELEASE_PAGE. -/
def Obligations.PageHolds : Prop :=
  Sys2Proof.Claim.KeepPage ∧ Sys2Proof.Claim.ReleasePage

/-- The reserve: 32 at power-on, SET_RESERVE clamps, SET_REGIONS sets it, nothing else changes it. -/
def Obligations.Reserve : Prop :=
  Sys2Proof.Claim.SetReserve ∧ Sys2Proof.Claim.ReserveKept ∧ Sys2Proof.Claim.SetRegions

/-- The capture allocation and the receive allocation, granted and refused. -/
def Obligations.Allocation : Prop :=
  Sys2Proof.Claim.CaptureAllocationGranted ∧ Sys2Proof.Claim.CaptureAllocationRefused ∧
    Sys2Proof.Claim.ReceiveAllocation

/-- A host write by area: it passes, is absorbed, is discarded, is observed, or waits at the port or behind another word. -/
def Obligations.HostWrites : Prop :=
  Sys2Proof.Claim.HostWriteByArea ∧ Sys2Proof.Claim.HostWriteObserved ∧ Sys2Proof.Claim.BusWaits

/-- The arbiter grants an engine that has waited its limit, then the bus, then the engine that waited longest; the access
of each requester, and the bus's access of a run while it lasts. -/
def Obligations.Arbiter : Prop :=
  Sys2Proof.Claim.GrantOrder ∧ Sys2Proof.Claim.ArbiterGrant ∧ Sys2Proof.Claim.BusRun ∧
    Sys2Proof.Claim.BusAccessLasts ∧ Sys2Proof.Claim.AccessBounded

/-- OPEN_CAPTURE: its tests in order, and the FILLING page at the lowest FREE record. -/
def Obligations.OpenCapture : Prop :=
  Sys2Proof.Claim.OpenCapture ∧ Sys2Proof.Claim.LowestFreeRecord

/-- CLOSE_CAPTURE as it is taken, and ABORT_CAPTURE. -/
def Obligations.CloseAndAbort : Prop :=
  Sys2Proof.Claim.CloseCaptureTaken ∧ Sys2Proof.Claim.AbortCapture

/-- CLOSE_CAPTURE_COMPLETE makes the page COMPLETE and places it by its purpose. -/
def Obligations.CloseCaptureComplete : Prop :=
  Sys2Proof.Claim.CloseCaptureComplete

/-- A host write of a capture slot word is held while the slot is PENDING and passes otherwise. -/
def Obligations.CaptureWindowWrite : Prop :=
  Sys2Proof.Claim.CaptureWindowWrite

/-- The end of a held capture write: by the hold limit with a lost line, or by the take of the line. -/
def Obligations.CaptureHolds : Prop :=
  Sys2Proof.Claim.CaptureHoldExpiry ∧ Sys2Proof.Claim.TakeReleasesHeldWrite

/-- LINE_TAKE codes the next line from its slot, or REPEAT when it is lost. -/
def Obligations.LineTake : Prop :=
  Sys2Proof.Claim.LineTake

/-- PRINT_PAGE: its tests, the join at the tail, the start in RUN, and the page without lines. -/
def Obligations.PrintPage : Prop :=
  Sys2Proof.Claim.PrintPage ∧ Sys2Proof.Claim.EmptyPagePrinted

/-- END_PRINT takes the head page out of the queue. -/
def Obligations.EndPrint : Prop :=
  Sys2Proof.Claim.EndPrint

/-- SET_PRINT_MODE and SET_RENDER_WIDTH, their power-on values, and that the host reset keeps them. -/
def Obligations.PrintSettings : Prop :=
  Sys2Proof.Claim.SetPrintMode ∧ Sys2Proof.Claim.SetRenderWidth ∧ Sys2Proof.Claim.PrintSettingsKept

/-- RENDER_LINE_DECODED and RENDER_SLOT_FILLED. -/
def Obligations.Decoder : Prop :=
  Sys2Proof.Claim.RenderLineDecoded ∧ Sys2Proof.Claim.RenderSlotFilled

/-- RENDER_SLOT_READ by slot state, and the read that prints the page. -/
def Obligations.RenderSlotRead : Prop :=
  Sys2Proof.Claim.RenderSlotRead ∧ Sys2Proof.Claim.PagePrinted

/-- RENDER_HOLD_EXPIRY: the held read returns zero and the line is an underrun; with the page's last line the page is
printed. -/
def Obligations.RenderHoldExpiry : Prop :=
  Sys2Proof.Claim.RenderHoldExpiry ∧ Sys2Proof.Claim.RenderHoldExpiryPrints

/-- SET_LINE_MODE, SET_RINGS and SET_LINE_OPTIONS. -/
def Obligations.LineSettings : Prop :=
  Sys2Proof.Claim.LineSettingCommands

/-- HANG_UP by call state. -/
def Obligations.HangUp : Prop :=
  Sys2Proof.Claim.HangUp

/-- RING_BURST: counting, answering, and glare. -/
def Obligations.RingBurst : Prop :=
  Sys2Proof.Claim.RingBurst ∧ Sys2Proof.Claim.Glare

/-- RING_GAP_TIMEOUT, RECOVERY_END and ANSWER_TONE_END. -/
def Obligations.LineReturns : Prop :=
  Sys2Proof.Claim.LineBecomesIdle ∧ Sys2Proof.Claim.AnswerToneEnd

/-- The dialling of a number: dial tone, blind delay, strobes, pulses, pauses and gaps. -/
def Obligations.Dialling : Prop :=
  Sys2Proof.Claim.DiallingStarts ∧ Sys2Proof.Claim.DiallingGoesOn

/-- CTONE bursts and the classification of exchange tone cycles. -/
def Obligations.Progress : Prop :=
  Sys2Proof.Claim.CallingBursts ∧ Sys2Proof.Claim.ToneCycles

/-- The events of the line that end an outgoing call, each with its cause. -/
def Obligations.LineEndsCall : Prop :=
  Sys2Proof.Claim.LineEndsCall

/-- The sender opens and trains: IDENT, READY, RETRY and the burst sent. -/
def Obligations.SenderTraining : Prop :=
  Sys2Proof.Claim.IdentTaken ∧ Sys2Proof.Claim.TrainingPassed ∧ Sys2Proof.Claim.TrainingRetried ∧
    Sys2Proof.Claim.BurstSent

/-- The division of a page into session blocks and frames. -/
def Obligations.PageDivision : Prop :=
  Sys2Proof.Claim.PageDivision

/-- The sender's pages: payloads, BLOCK_OK, GAPS, STORE_FULL and PAGE_OK. -/
def Obligations.SenderPages : Prop :=
  Sys2Proof.Claim.DataPayload ∧ Sys2Proof.Claim.PageSent ∧ Sys2Proof.Claim.GapsTaken ∧
    Sys2Proof.Claim.StoreFullTaken ∧ Sys2Proof.Claim.PageConfirmed

/-- What follows a frame sent, and the timers of a session. -/
def Obligations.SessionTiming : Prop :=
  Sys2Proof.Claim.FrameSent ∧ Sys2Proof.Claim.ResponseTimeout ∧ Sys2Proof.Claim.SessionTimers

/-- The receiver takes SETUP and a training burst. -/
def Obligations.ReceiverTraining : Prop :=
  Sys2Proof.Claim.ReceiverTraining

/-- The receiver takes PAGE_HEAD. -/
def Obligations.PageHeadTaken : Prop :=
  Sys2Proof.Claim.PageHeadTaken

/-- The receiver takes DATA, BLOCK_END and the drain of a session block. -/
def Obligations.BlocksTaken : Prop :=
  Sys2Proof.Claim.DataTaken ∧ Sys2Proof.Claim.BlockEndTaken

/-- The receiver takes PAGE_END and completes the page. -/
def Obligations.PageEndTaken : Prop :=
  Sys2Proof.Claim.PageEndTaken

/-- CLEAR sent, CLEAR taken and carrier lost end the call. -/
def Obligations.SessionEnds : Prop :=
  Sys2Proof.Claim.SessionEnds

/-- A frame that is not expected, or out of range, changes nothing but the idle timer. -/
def Obligations.FramesIgnored : Prop :=
  Sys2Proof.Claim.FramesIgnored

/-- SET_STATION_ID. -/
def Obligations.SetStationId : Prop :=
  Sys2Proof.Claim.SetStationId

/-- CREATE_JOB and ADD_RECIPIENT. -/
def Obligations.CreateJob : Prop :=
  Sys2Proof.Claim.CreateJob ∧ Sys2Proof.Claim.AddRecipient

/-- SUBMIT_JOB, RELEASE_JOB and DELETE_JOB. -/
def Obligations.JobMoves : Prop :=
  Sys2Proof.Claim.JobMoves

/-- CANCEL_JOB, CANCEL_RECIPIENT and LINE_CANCEL. -/
def Obligations.Cancels : Prop :=
  Sys2Proof.Claim.CancelJob ∧ Sys2Proof.Claim.CancelRecipient ∧ Sys2Proof.Claim.LineCancel

/-- DISPATCH_CHOICE: the order, the gates, and when no choice is made. SEIZE: the line, the call record, the recipient and its
job, and a cancel that comes between the two. -/
def Obligations.ChoiceAndSeize : Prop :=
  Sys2Proof.Claim.DispatchChoice ∧ Sys2Proof.Claim.NoChoice ∧ Sys2Proof.Claim.SeizeTaken ∧ Sys2Proof.Claim.SeizeNotAsked ∧
    Sys2Proof.Claim.CancelAfterChoice

/-- The words of the bus that wait, the word held, and the lines of the render slots stay in order. -/
def Obligations.PathInOrder : Prop :=
  Sys2Proof.Claim.BusStaysInOrder ∧ Sys2Proof.Claim.HoldsStayInOrder ∧ Sys2Proof.Claim.SlotLinesStayInPlace ∧
    Sys2Proof.Claim.PowerOnPathInOrder

/-- The tariff: the zone of a number, the band in force, host writes and LOCK_TARIFF. -/
def Obligations.Tariff : Prop :=
  Sys2Proof.Claim.ZoneOfNumber ∧ Sys2Proof.Claim.BandInForce ∧ Sys2Proof.Claim.TariffWrite ∧ Sys2Proof.Claim.LockTariff

/-- Charges: the answer, units due, meter pulses, the desks' fields and the call log's consumer index. -/
def Obligations.Charges : Prop :=
  Sys2Proof.Claim.AnswerDetected ∧ Sys2Proof.Claim.UnitDue ∧ Sys2Proof.Claim.MeterPulse ∧
    Sys2Proof.Claim.DeskFieldWrite ∧ Sys2Proof.Claim.CallLogConsumerWrite

/-- SET_CLOCK: its tests, the calendar, the weekday. -/
def Obligations.SetClock : Prop :=
  Sys2Proof.Claim.SetClock ∧ Sys2Proof.Claim.Weekdays

/-- The clock runs: second and uptime advances, the crystal, the timetable, reads of the clock record. -/
def Obligations.ClockRuns : Prop :=
  Sys2Proof.Claim.CalendarAdvance ∧ Sys2Proof.Claim.SecondAdvance ∧ Sys2Proof.Claim.TimetableFires ∧
    Sys2Proof.Claim.TimetableFiresInOrder ∧ Sys2Proof.Claim.MonthTurns ∧ Sys2Proof.Claim.ClockEvents ∧ Sys2Proof.Claim.ClockReads

/-- SET_ATTN, the end of an ATTN pulse, and the report consumer index. -/
def Obligations.ReportsAndAttn : Prop :=
  Sys2Proof.Claim.SetAttn ∧ Sys2Proof.Claim.AttnPulseEnd ∧ Sys2Proof.Claim.ReportConsumerWrite

/-- The line guard: ENABLE_GUARD, CLEAR_GUARD_FLAG, kicks and the expiry. -/
def Obligations.Guard : Prop :=
  Sys2Proof.Claim.GuardCommands ∧ Sys2Proof.Claim.GuardKick ∧ Sys2Proof.Claim.GuardExpiry

/-- HOST_RESET: what it ends, what it clears and what it keeps. -/
def Obligations.HostReset : Prop :=
  Sys2Proof.Claim.HostReset

/-- The end of an outgoing call settles its recipient and, when nothing is left of it, finishes its job. -/
def Obligations.RecipientSettled : Prop :=
  Sys2Proof.Claim.RecipientSettled
end

