-- ==== Sys2Proof/Laws/Memory.lean ====
section
/-! SUPPORT. The laws of DRAM: a read after a write, a write leaves every other byte alone, and every
operation keeps the canonical form. -/

namespace Sys2Proof.Machine

/-! ## Reads after writes -/

/-- Below the least address of a canonical memory nothing is listed. -/
theorem Memory.read_below : ∀ (m : List Host.Cell) (n x : Nat), Memory.wfFrom n m = true → x < n →
    Memory.read m x = Memory.unlisted
  | [], _, _, _, _ => rfl
  | (a, v) :: m, n, x, h, hx => by
    simp only [Memory.wfFrom, Bool.and_eq_true, decide_eq_true_eq] at h
    have ha : x ≠ a := by omega
    simp only [Memory.read, ha, if_false]
    exact Memory.read_below m (a + 1) x h.2 (by omega)

/-- A write gives the byte written at its address and leaves every other byte alone. -/
theorem Memory.read_write_from : ∀ (m : List Host.Cell) (n x y : Nat) (v : Byte), Memory.wfFrom n m = true →
    Memory.read (Memory.write m x v) y = if y = x then v else Memory.read m y
  | [], _, x, y, v, _ => by
    by_cases hv : v = Memory.unlisted <;> by_cases hy : y = x <;> simp [Memory.write, Memory.read, hv, hy]
  | (a, u) :: m, n, x, y, v, h => by
    have h0 := h
    simp only [Memory.wfFrom, Bool.and_eq_true, decide_eq_true_eq] at h
    have below := Memory.read_below m (a + 1)
    have ih := Memory.read_write_from m (a + 1) x y v h.2
    by_cases hlt : x < a
    · by_cases hv : v = Memory.unlisted
      · subst hv
        by_cases hy : y = x
        · subst hy
          have : y ≠ a := by omega
          simp [Memory.write, Memory.read, hlt, this, below y h.2 (by omega)]
        · simp [Memory.write, hlt, hy]
      · by_cases hy : y = x
        · subst hy
          simp [Memory.write, Memory.read, hlt, hv]
        · simp [Memory.write, Memory.read, hlt, hv, hy]
    · by_cases hxa : x = a
      · subst hxa
        by_cases hv : v = Memory.unlisted
        · subst hv
          by_cases hy : y = x
          · subst hy
            simp [Memory.write, below y h.2 (by omega)]
          · simp [Memory.write, Memory.read, hy]
        · by_cases hy : y = x
          · subst hy; simp [Memory.write, Memory.read, hv]
          · simp [Memory.write, Memory.read, hv, hy]
      · by_cases hya : y = a
        · subst hya
          have : y ≠ x := fun e => hxa e.symm
          simp [Memory.write, Memory.read, hlt, hxa, this]
        · simp [Memory.write, Memory.read, hlt, hxa, hya, ih]

theorem Memory.read_write (m : List Host.Cell) (h : Memory.wf m = true) (x y : Nat) (v : Byte) :
    Memory.read (Memory.write m x v) y = if y = x then v else Memory.read m y :=
  Memory.read_write_from m 0 x y v h

/-- Whatever the form of the memory, a write leaves every other byte alone. -/
theorem Memory.read_write_ne : ∀ (m : List Host.Cell) (x y : Nat) (v : Byte), y ≠ x →
    Memory.read (Memory.write m x v) y = Memory.read m y
  | [], x, y, v, h => by by_cases hv : v = Memory.unlisted <;> simp [Memory.write, Memory.read, hv, h]
  | (a, u) :: m, x, y, v, h => by
    have ih := Memory.read_write_ne m x y v h
    unfold Memory.write
    by_cases hlt : x < a
    · by_cases hv : v = Memory.unlisted <;> simp [Memory.read, hlt, hv, h]
    · by_cases hxa : x = a
      · subst hxa
        by_cases hv : v = Memory.unlisted <;> simp [Memory.read, hv, h]
      · by_cases hya : y = a <;> simp [Memory.read, hlt, hxa, hya, ih]

/-! ## The canonical form -/

theorem Memory.wfFrom_le : ∀ (m : List Host.Cell) (n k : Nat), k ≤ n → Memory.wfFrom n m = true → Memory.wfFrom k m = true
  | [], _, _, _, _ => rfl
  | (a, v) :: m, n, k, hk, h => by
    simp only [Memory.wfFrom, Bool.and_eq_true, decide_eq_true_eq] at h ⊢
    exact ⟨⟨by omega, h.1.2⟩, h.2⟩

theorem Memory.wfFrom_write : ∀ (m : List Host.Cell) (n x : Nat) (v : Byte), n ≤ x → Memory.wfFrom n m = true →
    Memory.wfFrom n (Memory.write m x v) = true
  | [], n, x, v, hx, _ => by
    by_cases hv : v = Memory.unlisted <;> simp [Memory.write, Memory.wfFrom, hv, hx]
  | (a, u) :: m, n, x, v, hx, h => by
    simp only [Memory.wfFrom, Bool.and_eq_true, decide_eq_true_eq] at h
    obtain ⟨⟨ha, hu⟩, hm⟩ := h
    by_cases hlt : x < a
    · by_cases hv : v = Memory.unlisted
      · simp [Memory.write, Memory.wfFrom, hlt, hv, ha, hu, hm]
      · have : x + 1 ≤ a := by omega
        simp [Memory.write, Memory.wfFrom, hlt, hv, hx, hu, hm, this]
    · by_cases hxa : x = a
      · subst hxa
        by_cases hv : v = Memory.unlisted
        · simp only [Memory.write, lt_irrefl, if_false, if_true, hv]
          exact Memory.wfFrom_le m (x + 1) n (by omega) hm
        · simp [Memory.write, Memory.wfFrom, hv, ha, hm]
      · have : a + 1 ≤ x := by omega
        simp [Memory.write, Memory.wfFrom, hlt, hxa, ha, hu, Memory.wfFrom_write m (a + 1) x v this hm]

theorem Memory.wf_write (m : List Host.Cell) (x : Nat) (v : Byte) (h : Memory.wf m = true) :
    Memory.wf (Memory.write m x v) = true :=
  Memory.wfFrom_write m 0 x v (Nat.zero_le x) h

theorem Memory.wf_writeMasked (m : List Host.Cell) (w : Nat) (be : BitVec 4) (v : Word) (h : Memory.wf m = true) :
    Memory.wf (Memory.writeMasked m w be v) = true := by
  unfold Memory.writeMasked
  dsimp only
  repeat' split
  all_goals repeat (first | exact h | apply Memory.wf_write)

theorem Memory.wf_writeWord (m : List Host.Cell) (w : Nat) (v : Word) (h : Memory.wf m = true) :
    Memory.wf (Memory.writeWord m w v) = true := Memory.wf_writeMasked m w _ v h

theorem Memory.wf_writeBytes : ∀ (bytes : List ByteWrite) (m : List Host.Cell), Memory.wf m = true →
    Memory.wf (Memory.writeBytes m bytes) = true
  | [], _, h => h
  | b :: bytes, m, h => Memory.wf_writeBytes bytes (Memory.write m b.1 b.2) (Memory.wf_write m b.1 b.2 h)

/-! ## Words -/

theorem Word.ofBytes_byte (v : Word) : Word.ofBytes (v.byte 0) (v.byte 1) (v.byte 2) (v.byte 3) = v := by
  apply BitVec.eq_of_toNat_eq
  show (v.extractLsb' 24 8 ++ v.extractLsb' 16 8 ++ v.extractLsb' 8 8 ++ v.extractLsb' 0 8 : BitVec 32).toNat = v.toNat
  have hv := v.isLt
  have e : ∀ a b : Nat, b < 256 → a <<< 8 ||| b = a * 256 + b := by
    intro a b hb
    rw [Nat.shiftLeft_eq, ← Nat.shiftLeft_eq, Nat.shiftLeft_add_eq_or_of_lt (by omega : b < 2 ^ 8)]
  simp only [BitVec.toNat_append, BitVec.extractLsb'_toNat, Nat.shiftRight_eq_div_pow]
  rw [e _ _ (by omega), e _ _ (by omega), e _ _ (by omega)]
  omega

/-- A whole word written is the word read. -/
theorem Memory.readWord_writeWord (m : List Host.Cell) (h : Memory.wf m = true) (w : Nat) (v : Word) :
    Memory.readWord (Memory.writeWord m w v) w = v := by
  have h1 := Memory.wf_write m (4 * w) (v.byte 0) h
  have h2 := Memory.wf_write _ (4 * w + 1) (v.byte 1) h1
  have h3 := Memory.wf_write _ (4 * w + 2) (v.byte 2) h2
  simp [Memory.readWord, Memory.writeWord, Memory.writeMasked, Memory.read_write, h, h1, h2, h3, Word.ofBytes_byte]

/-- A word written leaves every other word alone. -/
theorem Memory.readWord_writeMasked_ne (m : List Host.Cell) (w x : Nat) (be : BitVec 4) (v : Word) (hx : x ≠ w) :
    Memory.readWord (Memory.writeMasked m w be v) x = Memory.readWord m x := by
  have key : ∀ (k : Nat), k < 4 → Memory.read (Memory.writeMasked m w be v) (4 * x + k) = Memory.read m (4 * x + k) := by
    intro k hk
    unfold Memory.writeMasked
    dsimp only
    repeat' split
    all_goals repeat (first | rfl | rw [Memory.read_write_ne _ _ _ _ (by omega)])
  simp only [Memory.readWord]
  rw [key 1 (by omega), key 2 (by omega), key 3 (by omega)]
  have := key 0 (by omega)
  simp only [Nat.add_zero] at this
  rw [this]

theorem Memory.readWord_writeWord_ne (m : List Host.Cell) (w x : Nat) (v : Word) (hx : x ≠ w) :
    Memory.readWord (Memory.writeWord m w v) x = Memory.readWord m x := Memory.readWord_writeMasked_ne m w x _ v hx

end Sys2Proof.Machine
end

