-- ==== Sys2Proof/Laws/Posting.lean ====
section
/-! SUPPORT. The laws of the posting list: what each posting operation leaves as it was (`Alike`), the
settled value of the words it posts, and that it leaves every other settled word alone. -/

namespace Sys2Proof.Machine

/-! ## Alike -/

theorem State.Alike.refl (s : State) : s.Alike s := by constructor <;> simp

theorem State.Alike.trans {s t u : State} (h : s.Alike t) (k : t.Alike u) : s.Alike u := by
  constructor
  case clock => rw [k.clock, h.clock]
  case moved =>
    intro o
    have : t.clock.readOpen = false := by rw [h.clock]; exact o
    rw [k.moved this, h.moved o]
  all_goals first
    | rw [k.atPort, h.atPort] | rw [k.regions, h.regions] | rw [k.holdLimit, h.holdLimit] | rw [k.straps, h.straps] | rw [k.held, h.held]
    | rw [k.stalled, h.stalled] | rw [k.readData, h.readData] | rw [k.store, h.store] | rw [k.coder, h.coder]
    | rw [k.render, h.render] | rw [k.lines, h.lines] | rw [k.sessions, h.sessions] | rw [k.stationId, h.stationId]
    | rw [k.dispatch, h.dispatch] | rw [k.charge, h.charge] | rw [k.producer, h.producer] | rw [k.consumer, h.consumer]
    | rw [k.inProgress, h.inProgress] | rw [k.report, h.report] | rw [k.guard, h.guard] | rw [k.pending, h.pending]

/-! ## Settled words -/

theorem lastPosted_append (w : Nat) : ∀ (a b : List PostItem),
    lastPosted w (a ++ b) = (lastPosted w b).or (lastPosted w a)
  | [], b => by simp [lastPosted]
  | .write w' v :: a, b => by simp [lastPosted, lastPosted_append w a b, Option.or_assoc]
  | .read _ _ _ :: a, b => by simp [lastPosted, lastPosted_append w a b]

/-- Items that join the list from those that wait stay in their order. -/
@[simp] theorem Path.fill_items (p : Path) : p.fill.items = p.items := by
  simp [Path.fill, Path.items, List.append_assoc]

/-- Filling the list moves items between the list and what waits for room in it, and nothing else. -/
theorem Path.fill_eq (p : Path) : p.fill = { p with postings := p.fill.postings, waiting := p.fill.waiting } := rfl

@[simp] theorem State.deliver_items (s : State) (item : PostItem) : (s.deliver item).path.items = s.path.items := by
  cases item with
  | write w v => rfl
  | read w n a => cases a <;> rfl

/-- Only a posting moves DRAM. -/
theorem State.deliver_mem (s : State) (item : PostItem) :
    (s.deliver item).mem = match item with
      | .write w v => Memory.writeWord s.mem w v
      | .read _ _ _ => s.mem := by
  cases item with
  | write w v => rfl
  | read w n a => cases a <;> rfl

/-- The step of the poster and the state it leaves. -/
theorem State.handHead_alike (s : State) : s.Alike s.handHead := by
  unfold State.handHead
  split
  · exact .refl s
  · rename_i item rest _
    rw [Path.fill_eq]
    cases item with
    | write w v => constructor <;> simp_all [State.deliver]
    | read w n a => cases a <;> constructor <;> simp_all [State.deliver]

theorem State.handHead_wf (s : State) (h : Memory.wf s.mem = true) : Memory.wf s.handHead.mem = true := by
  unfold State.handHead
  split
  · exact h
  · rename_i item rest _
    cases item with
    | write w v => exact Memory.wf_writeWord _ _ _ h
    | read w n a => cases a <;> exact h

/-- Handing an item to DRAM settles nothing anew. -/
theorem State.handHead_settledWord (s : State) (h : Memory.wf s.mem = true) (x : Nat) :
    s.handHead.settledWord x = s.settledWord x := by
  unfold State.handHead
  split
  · rfl
  · rename_i item rest e
    have items : s.path.items = item :: (rest ++ s.path.waiting) := by simp [Path.items, e]
    simp only [State.settledWord, State.deliver_items, State.deliver_mem, Path.fill_items, items]
    simp only [Path.items]
    cases item with
    | write w v =>
      simp only [lastPosted]
      by_cases hx : w = x
      · subst hx
        rw [Memory.readWord_writeWord _ h]
        cases lastPosted w (rest ++ s.path.waiting) <;> simp
      · rw [Memory.readWord_writeWord_ne _ _ _ _ (fun k => hx k.symm)]
        cases lastPosted x (rest ++ s.path.waiting) <;> simp [hx]
    | read w n a => simp only [lastPosted]

/-- `t` is `s` after work of the poster: no word of DRAM settles anew, and all else is as it was. -/
structure State.Handed (s t : State) : Prop where
  alike : s.Alike t
  wf : Memory.wf s.mem = true → Memory.wf t.mem = true
  settled : Memory.wf s.mem = true → ∀ x, t.settledWord x = s.settledWord x

theorem State.Handed.refl (s : State) : s.Handed s := ⟨.refl s, id, fun _ _ => rfl⟩

theorem State.Handed.trans {s t u : State} (h : s.Handed t) (k : t.Handed u) : s.Handed u :=
  ⟨h.alike.trans k.alike, fun w => k.wf (h.wf w), fun w x => by rw [k.settled (h.wf w), h.settled w]⟩

theorem State.handed_handHead (s : State) : s.Handed s.handHead :=
  ⟨s.handHead_alike, s.handHead_wf, s.handHead_settledWord⟩

theorem State.handed_askPort (s : State) : s.Handed s.askPort :=
  ⟨by constructor <;> simp [State.askPort], id, fun _ _ => rfl⟩

/-- A request that leaves the arbiter moves nothing else. -/
theorem State.handed_leavePort (s : State) (r : Requester) : s.Handed (s.leavePort r) :=
  ⟨by constructor <;> simp [State.leavePort], id, fun _ _ => rfl⟩

@[simp] theorem PostItem.isEntryRead_write (w : Nat) (v : Word) : (PostItem.write w v).isEntryRead = false := rfl
@[simp] theorem PostItem.isEntryRead_read (w n : Nat) (a : Asker) : (PostItem.read w n a).isEntryRead = (a == .command) := by
  cases a <;> rfl

/-- Reads that leave the list settle nothing anew. -/
theorem lastPosted_filter_entryRead (w : Nat) : ∀ l : List PostItem,
    lastPosted w (l.filter fun i => !i.isEntryRead) = lastPosted w l
  | [] => rfl
  | .write w' v :: l => by simp [lastPosted, lastPosted_filter_entryRead w l]
  | .read w' n a :: l => by
    rw [List.filter_cons]
    split <;> simp [lastPosted, lastPosted_filter_entryRead w l]

theorem State.handed_dropEntryRead (s : State) : s.Handed s.dropEntryRead :=
  ⟨by constructor <;> first | rfl | exact fun _ => rfl, id, fun _ x => by
    simp only [State.dropEntryRead, State.settledWord, Path.fill_items]
    simp only [Path.items, ← List.filter_append, lastPosted_filter_entryRead]⟩

theorem State.handed_readArrives (s : State) : s.Handed s.readArrives := by
  unfold State.readArrives
  refine s.handed_dropEntryRead.trans ?_
  dsimp only
  split <;> exact ⟨by constructor <;> first | rfl | exact fun _ => rfl, id, fun _ _ => rfl⟩

/-! ## Posting one word -/

/-- `t` is `s` after postings: all but the poster's traffic is as it was, the words that `f` gives a value
have it, and every other word settles as before. -/
structure State.PostsWords (s t : State) (f : Nat → Option Word) : Prop where
  alike : s.Alike t
  wf : Memory.wf s.mem = true → Memory.wf t.mem = true
  settled : Memory.wf s.mem = true → ∀ x, t.settledWord x = (f x).getD (s.settledWord x)

theorem State.Handed.posts {s t : State} (h : s.Handed t) : s.PostsWords t fun _ => none :=
  ⟨h.alike, h.wf, fun w x => by simpa using h.settled w x⟩

theorem State.PostsWords.trans {s t u : State} {f g : Nat → Option Word} (h : s.PostsWords t f) (k : t.PostsWords u g) :
    s.PostsWords u fun x => (g x).or (f x) :=
  ⟨h.alike.trans k.alike, fun w => k.wf (h.wf w), fun w x => by
    rw [k.settled (h.wf w), h.settled w]; cases g x <;> simp⟩

theorem State.PostsWords.congr {s t : State} {f g : Nat → Option Word} (h : s.PostsWords t f) (e : ∀ x, f x = g x) :
    s.PostsWords t g := ⟨h.alike, h.wf, fun w x => by rw [h.settled w, e]⟩

/-- One word, and no other. -/
def atWord (w : Nat) (v : Word) (x : Nat) : Option Word := if x = w then some v else none

/-- An item joins at the tail, whether the list has room for it or it waits (R176). -/
@[simp] theorem State.addItem_items (s : State) (item : PostItem) : (s.addItem item).path.items = s.path.items ++ [item] := by
  simp only [State.addItem, Path.fill_items]
  simp [Path.items, List.append_assoc]

@[simp] theorem State.addItem_mem (s : State) (item : PostItem) : (s.addItem item).mem = s.mem := rfl

theorem State.addItem_alike (s : State) (item : PostItem) : s.Alike (s.addItem item) := by
  constructor <;> first | rfl | exact fun _ => rfl

/-- The list takes what waits as far as it has room, so it stays within its 128 items. -/
theorem State.addItem_bounded (s : State) (item : PostItem) (h : s.path.postings.length ≤ 128) :
    (s.addItem item).path.postings.length ≤ 128 := by
  simp only [State.addItem, Path.fill, Config.postingRoom, List.length_append, List.length_take]
  omega

theorem State.posts_addItem_write (s : State) (w : Nat) (v : Word) : s.PostsWords (s.addItem (.write w v)) (atWord w v) := by
  refine ⟨s.addItem_alike _, id, fun _ x => ?_⟩
  simp only [State.settledWord, State.addItem_items, State.addItem_mem, lastPosted_append, lastPosted, atWord]
  by_cases h : x = w
  · subst h; simp
  · have : ¬ w = x := fun e => h e.symm
    simp [h, this]

theorem State.handed_addItem_read (s : State) (w n : Nat) (a : Asker) : s.Handed (s.addItem (.read w n a)) := by
  exact ⟨s.addItem_alike _, id, fun _ x => by simp [State.settledWord, lastPosted_append, lastPosted]⟩

/-- An event that asks for its reads moves the poster's traffic only (R176). -/
theorem State.handed_askReads (s : State) (a : Asker) (reads : List (Nat × Nat)) : s.Handed (s.askReads a reads) := by
  unfold State.askReads
  induction reads generalizing s with
  | nil => exact .refl s
  | cons r reads ih => exact (s.handed_addItem_read _ _ a).trans (ih _)

@[simp] theorem PostItem.isFor_write (w w' : Nat) (v : Word) : (PostItem.write w' v).isFor w = (w' == w) := rfl
@[simp] theorem PostItem.isFor_read (w w' n : Nat) (a : Asker) : (PostItem.read w' n a).isFor w = false := rfl

/-- A replaced posting holds the later value; the others keep theirs (R177). -/
theorem lastPosted_map_sub (w : Nat) (v : Word) (x : Nat) : ∀ l : List PostItem,
    lastPosted x (l.map (PostItem.replacedBy w v)) =
      if x = w then (if l.any (PostItem.isFor w) then some v else none) else lastPosted x l
  | [] => by simp [lastPosted]
  | .write w' u :: l => by
    have ih := lastPosted_map_sub w v x l
    by_cases h : w' = w
    · subst h
      by_cases hx : x = w'
      · subst hx
        simp only [List.map_cons, PostItem.replacedBy, PostItem.isFor_write, beq_self_eq_true, if_true, lastPosted, List.any_cons,
          Bool.true_or]
        have ih' : lastPosted x (l.map (PostItem.replacedBy x v)) = if l.any (PostItem.isFor x) then some v else none := by
          simpa using ih
        rw [ih']
        split <;> simp
      · have hx' : ¬ w' = x := fun e => hx e.symm
        simp only [if_neg hx] at ih
        simp [PostItem.replacedBy, lastPosted, hx, hx']
        exact ih
    · have e : PostItem.replacedBy w v (.write w' u) = .write w' u := by simp [PostItem.replacedBy, h]
      rw [List.map_cons, e, lastPosted, ih]
      by_cases hx : x = w
      · subst hx; simp [h]
      · simp [lastPosted, hx]
  | .read w' n a :: l => by
    have ih := lastPosted_map_sub w v x l
    have e : PostItem.replacedBy w v (.read w' n a) = .read w' n a := by simp [PostItem.replacedBy]
    rw [List.map_cons, e, lastPosted, ih]
    simp [lastPosted]

/-- The items once the posting of a word is replaced: all but one at the port. -/
theorem Path.replacing_items (p : Path) (w : Nat) (v : Word) :
    (p.replacing w v).items =
      (if p.headHanded then p.postings.take 1 else []) ++ p.unhanded.map (PostItem.replacedBy w v) := by
  by_cases h : p.headHanded <;> simp [Path.replacing, Path.items, Path.unhanded, h]

/-- The items are the one at the port and those not yet handed. -/
theorem Path.items_eq (p : Path) : p.items = (if p.headHanded then p.postings.take 1 else []) ++ p.unhanded := by
  by_cases h : p.headHanded
  · simp only [Path.items, Path.unhanded, h, if_true]
    rw [← List.append_assoc, List.take_append_drop]
  · simp [Path.items, Path.unhanded, h]

theorem State.posts_postWord (s : State) (w : Nat) (v : Word) : s.PostsWords (s.postWord w v) (atWord w v) := by
  unfold State.postWord
  split
  · rename_i h
    refine ⟨by constructor <;> first | rfl | exact fun _ => rfl, id, fun _ x => ?_⟩
    simp only [State.settledWord, atWord]
    rw [Path.replacing_items, s.path.items_eq, lastPosted_append, lastPosted_append, lastPosted_map_sub]
    by_cases hx : x = w
    · rw [if_pos hx, if_pos h, if_pos hx]; rfl
    · simp [hx]
  · exact s.posts_addItem_write w v

/-- One word of the control area. -/
theorem State.posts_post (s : State) (place : Nat) (v : Word) :
    s.PostsWords (s.post place v) (atWord (s.path.straps.controlBase + place) v) := s.posts_postWord _ v

/-! ## Posting a record -/

/-- The words of a record at their places from a base on; a word given twice has its later value. -/
def atPlaces (base : Nat) : List (Nat × Word) → Nat → Option Word
  | [], _ => none
  | p :: ps, x => (atPlaces base ps x).or (atWord (base + p.1) p.2 x)

theorem State.posts_foldPost : ∀ (ps : List (Nat × Word)) (s : State),
    s.PostsWords (ps.foldl (fun s p => s.post p.1 p.2) s) (atPlaces s.path.straps.controlBase ps)
  | [], s => (State.Handed.refl s).posts
  | p :: ps, s => by
    have h := s.posts_post p.1 p.2
    have k := State.posts_foldPost ps (s.post p.1 p.2)
    rw [h.alike.straps] at k
    exact h.trans k

theorem State.posts_postAll (s : State) (place : Nat) (ws : List Word) :
    s.PostsWords (s.postAll place ws) (atPlaces s.path.straps.controlBase (placed place ws)) := State.posts_foldPost _ s

/-- The word at a place of a record posted there. -/
theorem atPlaces_placed (base place : Nat) (ws : List Word) (x : Nat) :
    atPlaces base (placed place ws) x = if base + place ≤ x then ws[x - (base + place)]? else none := by
  have key : ∀ (ws : List Word) (k : Nat), atPlaces base (placed place ws |>.map fun p => (p.1 + k, p.2)) x =
      if base + place + k ≤ x then ws[x - (base + place + k)]? else none := by
    intro ws
    induction ws with
    | nil => intro k; simp [placed, atPlaces]
    | cons w ws ih =>
      intro k
      have e : (placed place (w :: ws)).map (fun p => (p.1 + k, p.2)) =
          (place + k, w) :: ((placed place ws).map fun p => (p.1 + (k + 1), p.2)) := by
        simp only [placed, List.zipIdx_cons, List.map_cons, List.map_map, Nat.add_zero, List.zipIdx_succ (i := 0), zero_add]
        simp only [List.cons.injEq, true_and]
        apply List.map_congr_left
        intro p _
        simp only [Function.comp_apply, Prod.mk.injEq, and_true]
        omega
      rw [e, atPlaces, ih (k + 1)]
      simp only [atWord]
      by_cases h : x = base + (place + k)
      · subst h
        have : ¬ base + place + (k + 1) ≤ base + (place + k) := by omega
        have h2 : base + place + k ≤ base + (place + k) := by omega
        have h3 : base + (place + k) - (base + place + k) = 0 := by omega
        simp [this, h2, h3]
      · by_cases h2 : base + place + (k + 1) ≤ x
        · have h3 : base + place + k ≤ x := by omega
          have h4 : x - (base + place + k) = (x - (base + place + (k + 1))) + 1 := by omega
          simp [h, h2, h3, h4]
        · have h3 : ¬ base + place + k ≤ x := by omega
          simp [h, h2, h3]
  have := key ws 0
  simpa using this

/-- Outside its places a record posts nothing. -/
theorem atPlaces_none (base : Nat) (x : Nat) : ∀ ps : List (Nat × Word), (∀ p ∈ ps, x ≠ base + p.1) → atPlaces base ps x = none
  | [], _ => rfl
  | p :: ps, h => by
    rw [atPlaces, atPlaces_none base x ps fun q hq => h q (List.mem_cons_of_mem _ hq)]
    simp [atWord, h p List.mem_cons_self]

/-! ## From postings to frames -/

/-- Postings whose words all lie at the given places are a move. -/
theorem State.PostsWords.moves {s t : State} {f : Nat → Option Word} (h : s.PostsWords t f) (wf : Memory.wf s.mem = true)
    {places : List Nat} (out : ∀ x, (∀ p ∈ places, x ≠ s.path.straps.controlBase + p) → f x = none) : s.moves t places :=
  ⟨h.alike, fun x hx => by rw [h.settled wf, out x hx]; rfl⟩

theorem State.PostsWords.settledAt {s t : State} {f : Nat → Option Word} (h : s.PostsWords t f) (wf : Memory.wf s.mem = true)
    (place : Nat) : t.settledAt place = (f (s.path.straps.controlBase + place)).getD (s.settledAt place) := by
  simp only [State.settledAt, h.alike.straps]
  exact h.settled wf _

/-- A record posted at a place shows there. -/
theorem State.showsAt_postAll (s : State) (wf : Memory.wf s.mem = true) (place : Nat) (ws : List Word) :
    (s.postAll place ws).showsAt place ws := by
  intro i h
  rw [(s.posts_postAll place ws).settledAt wf, atPlaces_placed]
  have e : s.path.straps.controlBase + (place + i) - (s.path.straps.controlBase + place) = i := by omega
  simp [e, h]

theorem State.moves_postAll (s : State) (wf : Memory.wf s.mem = true) (place : Nat) (ws : List Word) :
    s.moves (s.postAll place ws) (span place ws.length) :=
  (s.posts_postAll place ws).moves wf fun x hx => by
    rw [atPlaces_placed]
    split
    · rename_i h
      rw [List.getElem?_eq_none]
      by_contra hlt
      exact hx (x - s.path.straps.controlBase) (by simp [span]; exact ⟨x - (s.path.straps.controlBase + place), by omega, by omega⟩)
        (by omega)
    · rfl

end Sys2Proof.Machine
end

