-- ==== Sys2Proof/Laws/Commands.lean ====
section
/-! SUPPORT. The laws of taking and ending a command (R182, R183): one law says what a command row does once
the owner's part is known. -/

namespace Sys2Proof.Machine

/-- The entry at the consumer index is in progress. -/
def State.entryTaken (s : State) (kind : Byte) (tag : Tag) : State :=
  { s with command := { s.command.given with inProgress := some ⟨kind, tag⟩ } }

/-- Taking an entry hands what stands before its read, and changes the command unit only. -/
theorem State.handed_beginEntry (s : State) (kind : Byte) (tag : Tag) :
    (s.entryTaken kind tag).Handed (s.beginEntry kind tag) := by
  have key : ∀ t : State, s.Handed t →
      (s.entryTaken kind tag).Handed
        { t with command := { t.command with
            producer := if t.command.pendingCount = 0 then t.command.consumer + 1 else t.command.producer
            inProgress := some ⟨kind, tag⟩ } } := by
    intro t h
    refine ⟨?_, h.wf, h.settled⟩
    have hp : t.command.pendingCount = s.command.pendingCount := by
      simp [CommandUnit.pendingCount, h.alike.producer, h.alike.consumer]
    exact {
      h.alike with
      producer := by simp [State.entryTaken, CommandUnit.given, hp, h.alike.producer, h.alike.consumer]
      consumer := by simp [State.entryTaken, CommandUnit.given, h.alike.consumer]
      inProgress := rfl }
  unfold State.beginEntry
  dsimp only
  split
  · exact key _ s.handed_readArrives
  · exact key _ (.refl s)

theorem State.handed_askEntry (s : State) : s.Handed s.askEntry := by
  unfold State.askEntry
  split
  · have h1 : s.Handed { s with command := { s.command with readAsked := true, withdrawn := false } } :=
      ⟨by constructor <;> first | rfl | exact fun _ => rfl, id, fun _ _ => rfl⟩
    exact h1.trans (State.handed_addItem_read _ _ _ _)
  · exact .refl s

/-- The command unit at the end of the entry in progress (R183). -/
def State.entryEnded (s : State) : State :=
  { s with command := { s.command with consumer := s.command.consumer + 1, inProgress := none } }

/-- The three words that the end of an entry posts. -/
def endWords (entry : Nat) (a : Answer) (tag : Tag) (c : CommandUnit) : List (Nat × Word) :=
  [(entry + 6, a.result), (entry + 7, pack [⟨a.code, 0, 8⟩, ⟨tag.toNat, 16, 16⟩]), (statusPlace + 14, statusCommand c)]

theorem State.posts_endCommand (s : State) (kind : Byte) (tag : Tag) (a : Answer) (h : s.command.inProgress = some ⟨kind, tag⟩) :
    s.entryEnded.PostsWords (s.endCommand a)
      (atPlaces s.path.straps.controlBase (endWords s.entryHere a tag s.entryEnded.command)) := by
  have h1 := s.posts_post (s.entryHere + 6) a.result
  have h2 := (s.post (s.entryHere + 6) a.result).posts_post (s.entryHere + 7) (pack [⟨a.code, 0, 8⟩, ⟨tag.toNat, 16, 16⟩])
  have h12 := h1.trans h2
  have h3 : s.entryEnded.PostsWords
      ((s.post (s.entryHere + 6) a.result).post (s.entryHere + 7) (pack [⟨a.code, 0, 8⟩, ⟨tag.toNat, 16, 16⟩])).entryEnded _ :=
    ⟨{ h12.alike with
        consumer := by simp [State.entryEnded, h12.alike.consumer]
        inProgress := rfl }, h12.wf, h12.settled⟩
  have h4 := h3.trans (State.posts_post _ (statusPlace + 14) (statusCommand s.entryEnded.command))
  have h5 := h4.trans (State.handed_askEntry _).posts
  have hs := h12.alike.straps
  have h1s := h1.alike.straps
  have e : s.endCommand a =
      (((s.post (s.entryHere + 6) a.result).post (s.entryHere + 7)
        (pack [⟨a.code, 0, 8⟩, ⟨tag.toNat, 16, 16⟩])).entryEnded.post (statusPlace + 14)
          (statusCommand s.entryEnded.command)).askEntry := by
    have hi : (s.post (entryPlace (s.command.consumer.toNat % 16) + 6) a.result).command.inProgress = s.command.inProgress :=
      (s.posts_post _ _).alike.inProgress
    have hc : statusCommand s.entryEnded.command =
        statusCommand ((s.post (s.entryHere + 6) a.result).post (s.entryHere + 7)
          (pack [⟨a.code, 0, 8⟩, ⟨tag.toNat, 16, 16⟩])).entryEnded.command := by
      simp [statusCommand, State.entryEnded, CommandUnit.pendingCount, h12.alike.consumer, h12.alike.producer]
    simp only [State.endCommand, State.postCommand, h]
    rw [hc]
    rfl
  rw [e]
  refine h5.congr fun x => ?_
  have hs' : ((s.post (s.entryHere + 6) a.result).post (s.entryHere + 7)
      (pack [⟨a.code, 0, 8⟩, ⟨tag.toNat, 16, 16⟩])).entryEnded.path.straps = s.path.straps := hs
  simp only [endWords, atPlaces, hs', h1s, Option.none_or, Option.or_assoc]

/-- What a command row does, when its owner's part is known: `v` is the state with the entry in progress and
the owner's registers changed, `g` the words that the owner posts. -/
theorem State.command_law {s v b : State} {kind : Nat} {tag : Tag} {act : State → State × Option Answer} {a : Answer}
    {g : Nat → Option Word} (h : s.takes) (hact : act (s.beginEntry (BitVec.ofNat 8 kind) tag) = (b, some a))
    (hv : v.PostsWords b g) (hc : v.command = (s.entryTaken (BitVec.ofNat 8 kind) tag).command)
    (hm : v.mem = s.mem) (hs : v.path.straps = s.path.straps) :
    ∃ t, (s.takeCommand kind tag act).settle = .next t ∧
      ({ v with command := s.commandDone.command } : State).PostsWords t (fun x =>
        (atPlaces s.path.straps.controlBase
          (endWords s.entryHere a tag s.commandDone.command) x).or (g x)) ∧
      s.answered t tag a := by
  obtain ⟨hip, hw, hwf⟩ := h
  have hbi : b.command.inProgress = some ⟨BitVec.ofNat 8 kind, tag⟩ := by
    rw [hv.alike.inProgress, hc]; rfl
  have hcons : b.command.consumer = s.command.consumer := by rw [hv.alike.consumer, hc]; rfl
  have hprod : b.command.producer = s.commandDone.command.producer := by rw [hv.alike.producer, hc]; rfl
  have hbs : b.path.straps = s.path.straps := by rw [hv.alike.straps, hs]
  have hend := b.posts_endCommand _ tag a hbi
  have hentry : b.entryHere = s.entryHere := by simp [State.entryHere, hcons]
  have hstat : statusCommand b.entryEnded.command = statusCommand s.commandDone.command := by
    simp [statusCommand, State.entryEnded, State.commandDone, CommandUnit.pendingCount, hcons, hprod]
  have hv2 : ({ v with command := s.commandDone.command } : State).PostsWords b.entryEnded g :=
    ⟨{ hv.alike with
        producer := by simp [State.entryEnded, hprod]
        consumer := by simp [State.entryEnded, State.commandDone, hcons]
        inProgress := by simp [State.entryEnded, State.commandDone] }, hv.wf, hv.settled⟩
  have hall := (hv2.trans hend).trans (b.endCommand a).handed_askPort.posts
  have eq : (s.takeCommand kind tag act).settle = .next (b.endCommand a).askPort := by
    simp [State.takeCommand, hip, hw, hact, State.settle]
  have hall' := hall.congr (g := fun x =>
        (atPlaces s.path.straps.controlBase
          (endWords s.entryHere a tag s.commandDone.command) x).or (g x)) fun x => by
    simp only [endWords, hentry, hbs, hstat, Option.none_or]
  refine ⟨_, eq, hall', ?_⟩
  have hwv : Memory.wf ({ v with command := s.commandDone.command } : State).mem = true := by
    show Memory.wf v.mem = true
    rw [hm]; exact hwf
  have hcmd : statusCommand (b.endCommand a).askPort.command = statusCommand s.commandDone.command := by
    simp only [statusCommand, CommandUnit.pendingCount, hall'.alike.consumer, hall'.alike.producer, hall'.alike.inProgress]
  have hlt : s.entryHere ≤ 64 + 8 * 15 := by
    have : s.command.consumer.toNat % 16 < 16 := Nat.mod_lt _ (by decide)
    simp only [State.entryHere, entryPlace, commandRingPlace]; omega
  have hge : 64 ≤ s.entryHere := by simp only [State.entryHere, entryPlace, commandRingPlace]; omega
  have hst : statusPlace + 14 = 14 := rfl
  refine ⟨?_, ?_, ?_⟩ <;> rw [hall'.settledAt hwv]
  · simp [endWords, atPlaces, atWord, hs, hst, show ¬ s.entryHere = 8 by omega]
  · simp [endWords, atPlaces, atWord, hs, hst, show ¬ s.entryHere = 7 by omega]
  · rw [hcmd]
    simp [endWords, atPlaces, atWord, hs, hst]

/-- Outside its three places the end of a command posts nothing. -/
theorem endWords_none {s : State} {a : Answer} {tag : Tag} {c : CommandUnit} {places : List Nat} {x : Nat}
    (hx : ∀ p ∈ s.commandPlaces ++ places, x ≠ s.path.straps.controlBase + p) :
    atPlaces s.path.straps.controlBase (endWords s.entryHere a tag c) x = none :=
  atPlaces_none _ _ _ fun p hp => by
    simp only [endWords, List.mem_cons, List.not_mem_nil, or_false] at hp
    refine hx _ ?_
    rcases hp with rfl | rfl | rfl <;> simp [State.commandPlaces]

/-- A refused command only ends (R183). -/
theorem State.refuse_law {s : State} {kind : Nat} {tag : Tag} {act : State → State × Option Answer} {code : CommandRefusal}
    (h : s.takes) (hact : act (s.beginEntry (BitVec.ofNat 8 kind) tag) = (s.beginEntry (BitVec.ofNat 8 kind) tag).refuse code) :
    ∃ t, (s.takeCommand kind tag act).settle = .next t ∧ s.refusedWith t tag code := by
  obtain ⟨t, e, p, a⟩ := State.command_law h hact (s.handed_beginEntry _ tag).posts rfl rfl rfl
  refine ⟨t, e, ?_, a⟩
  exact p.moves h.2.2 fun x hx => by
    rw [Option.or_none]
    exact endWords_none (places := []) fun p hp => hx p (by simpa using hp)

end Sys2Proof.Machine
end

