-- ==== Sys2Proof/Laws/State.lean ====
section
/-! SUPPORT. What each update of the state leaves and what it gives, field by field, so that no later proof
unfolds a record update. -/

namespace Sys2Proof.Machine

/-! ## setLine -/

@[simp] theorem State.setLine_path (s : State) (l : Line) (u : LineUnit) : (s.setLine l u).path = s.path := rfl
@[simp] theorem State.setLine_mem (s : State) (l : Line) (u : LineUnit) : (s.setLine l u).mem = s.mem := rfl
@[simp] theorem State.setLine_store (s : State) (l : Line) (u : LineUnit) : (s.setLine l u).store = s.store := rfl
@[simp] theorem State.setLine_coder (s : State) (l : Line) (u : LineUnit) : (s.setLine l u).coder = s.coder := rfl
@[simp] theorem State.setLine_render (s : State) (l : Line) (u : LineUnit) : (s.setLine l u).render = s.render := rfl
@[simp] theorem State.setLine_lines (s : State) (l : Line) (u : LineUnit) : (s.setLine l u).lines = s.lines.set l u := rfl
@[simp] theorem State.setLine_sessions (s : State) (l : Line) (u : LineUnit) : (s.setLine l u).sessions = s.sessions := rfl
@[simp] theorem State.setLine_stationId (s : State) (l : Line) (u : LineUnit) : (s.setLine l u).stationId = s.stationId := rfl
@[simp] theorem State.setLine_dispatch (s : State) (l : Line) (u : LineUnit) : (s.setLine l u).dispatch = s.dispatch := rfl
@[simp] theorem State.setLine_charge (s : State) (l : Line) (u : LineUnit) : (s.setLine l u).charge = s.charge := rfl
@[simp] theorem State.setLine_clock (s : State) (l : Line) (u : LineUnit) : (s.setLine l u).clock = s.clock := rfl
@[simp] theorem State.setLine_command (s : State) (l : Line) (u : LineUnit) : (s.setLine l u).command = s.command := rfl
@[simp] theorem State.setLine_report (s : State) (l : Line) (u : LineUnit) : (s.setLine l u).report = s.report := rfl
@[simp] theorem State.setLine_guard (s : State) (l : Line) (u : LineUnit) : (s.setLine l u).guard = s.guard := rfl
@[simp] theorem State.setLine_pending (s : State) (l : Line) (u : LineUnit) : (s.setLine l u).pending = s.pending := rfl

/-! ## setSession -/

@[simp] theorem State.setSession_path (s : State) (l : Line) (x : Session) : (s.setSession l x).path = s.path := rfl
@[simp] theorem State.setSession_mem (s : State) (l : Line) (x : Session) : (s.setSession l x).mem = s.mem := rfl
@[simp] theorem State.setSession_store (s : State) (l : Line) (x : Session) : (s.setSession l x).store = s.store := rfl
@[simp] theorem State.setSession_coder (s : State) (l : Line) (x : Session) : (s.setSession l x).coder = s.coder := rfl
@[simp] theorem State.setSession_render (s : State) (l : Line) (x : Session) : (s.setSession l x).render = s.render := rfl
@[simp] theorem State.setSession_lines (s : State) (l : Line) (x : Session) : (s.setSession l x).lines = s.lines := rfl
@[simp] theorem State.setSession_sessions (s : State) (l : Line) (x : Session) : (s.setSession l x).sessions = s.sessions.set l x := rfl
@[simp] theorem State.setSession_stationId (s : State) (l : Line) (x : Session) : (s.setSession l x).stationId = s.stationId := rfl
@[simp] theorem State.setSession_dispatch (s : State) (l : Line) (x : Session) : (s.setSession l x).dispatch = s.dispatch := rfl
@[simp] theorem State.setSession_charge (s : State) (l : Line) (x : Session) : (s.setSession l x).charge = s.charge := rfl
@[simp] theorem State.setSession_clock (s : State) (l : Line) (x : Session) : (s.setSession l x).clock = s.clock := rfl
@[simp] theorem State.setSession_command (s : State) (l : Line) (x : Session) : (s.setSession l x).command = s.command := rfl
@[simp] theorem State.setSession_report (s : State) (l : Line) (x : Session) : (s.setSession l x).report = s.report := rfl
@[simp] theorem State.setSession_guard (s : State) (l : Line) (x : Session) : (s.setSession l x).guard = s.guard := rfl
@[simp] theorem State.setSession_pending (s : State) (l : Line) (x : Session) : (s.setSession l x).pending = s.pending := rfl

/-! ## setPage -/

@[simp] theorem State.setPage_path (s : State) (n : Nat) (p : Option Page) : (s.setPage n p).path = s.path := rfl
@[simp] theorem State.setPage_mem (s : State) (n : Nat) (p : Option Page) : (s.setPage n p).mem = s.mem := rfl
@[simp] theorem State.setPage_store (s : State) (n : Nat) (p : Option Page) : (s.setPage n p).store = { s.store with pages := s.store.pages.put n p } := rfl
@[simp] theorem State.setPage_coder (s : State) (n : Nat) (p : Option Page) : (s.setPage n p).coder = s.coder := rfl
@[simp] theorem State.setPage_render (s : State) (n : Nat) (p : Option Page) : (s.setPage n p).render = s.render := rfl
@[simp] theorem State.setPage_lines (s : State) (n : Nat) (p : Option Page) : (s.setPage n p).lines = s.lines := rfl
@[simp] theorem State.setPage_sessions (s : State) (n : Nat) (p : Option Page) : (s.setPage n p).sessions = s.sessions := rfl
@[simp] theorem State.setPage_stationId (s : State) (n : Nat) (p : Option Page) : (s.setPage n p).stationId = s.stationId := rfl
@[simp] theorem State.setPage_dispatch (s : State) (n : Nat) (p : Option Page) : (s.setPage n p).dispatch = s.dispatch := rfl
@[simp] theorem State.setPage_charge (s : State) (n : Nat) (p : Option Page) : (s.setPage n p).charge = s.charge := rfl
@[simp] theorem State.setPage_clock (s : State) (n : Nat) (p : Option Page) : (s.setPage n p).clock = s.clock := rfl
@[simp] theorem State.setPage_command (s : State) (n : Nat) (p : Option Page) : (s.setPage n p).command = s.command := rfl
@[simp] theorem State.setPage_report (s : State) (n : Nat) (p : Option Page) : (s.setPage n p).report = s.report := rfl
@[simp] theorem State.setPage_guard (s : State) (n : Nat) (p : Option Page) : (s.setPage n p).guard = s.guard := rfl
@[simp] theorem State.setPage_pending (s : State) (n : Nat) (p : Option Page) : (s.setPage n p).pending = s.pending := rfl

/-! ## setJob -/

@[simp] theorem State.setJob_path (s : State) (j : Nat) (x : Option Job) : (s.setJob j x).path = s.path := rfl
@[simp] theorem State.setJob_mem (s : State) (j : Nat) (x : Option Job) : (s.setJob j x).mem = s.mem := rfl
@[simp] theorem State.setJob_store (s : State) (j : Nat) (x : Option Job) : (s.setJob j x).store = s.store := rfl
@[simp] theorem State.setJob_coder (s : State) (j : Nat) (x : Option Job) : (s.setJob j x).coder = s.coder := rfl
@[simp] theorem State.setJob_render (s : State) (j : Nat) (x : Option Job) : (s.setJob j x).render = s.render := rfl
@[simp] theorem State.setJob_lines (s : State) (j : Nat) (x : Option Job) : (s.setJob j x).lines = s.lines := rfl
@[simp] theorem State.setJob_sessions (s : State) (j : Nat) (x : Option Job) : (s.setJob j x).sessions = s.sessions := rfl
@[simp] theorem State.setJob_stationId (s : State) (j : Nat) (x : Option Job) : (s.setJob j x).stationId = s.stationId := rfl
@[simp] theorem State.setJob_dispatch (s : State) (j : Nat) (x : Option Job) : (s.setJob j x).dispatch = { s.dispatch with jobs := s.dispatch.jobs.put j x } := rfl
@[simp] theorem State.setJob_charge (s : State) (j : Nat) (x : Option Job) : (s.setJob j x).charge = s.charge := rfl
@[simp] theorem State.setJob_clock (s : State) (j : Nat) (x : Option Job) : (s.setJob j x).clock = s.clock := rfl
@[simp] theorem State.setJob_command (s : State) (j : Nat) (x : Option Job) : (s.setJob j x).command = s.command := rfl
@[simp] theorem State.setJob_report (s : State) (j : Nat) (x : Option Job) : (s.setJob j x).report = s.report := rfl
@[simp] theorem State.setJob_guard (s : State) (j : Nat) (x : Option Job) : (s.setJob j x).guard = s.guard := rfl
@[simp] theorem State.setJob_pending (s : State) (j : Nat) (x : Option Job) : (s.setJob j x).pending = s.pending := rfl

/-! ## passWrite -/

@[simp] theorem State.passWrite_path (s : State) (w : Nat) (be : BitVec 4) (v : Word) : (s.passWrite w be v).path = s.path := rfl
@[simp] theorem State.passWrite_mem (s : State) (w : Nat) (be : BitVec 4) (v : Word) : (s.passWrite w be v).mem = Memory.writeMasked s.mem w be v := rfl
@[simp] theorem State.passWrite_store (s : State) (w : Nat) (be : BitVec 4) (v : Word) : (s.passWrite w be v).store = s.store := rfl
@[simp] theorem State.passWrite_coder (s : State) (w : Nat) (be : BitVec 4) (v : Word) : (s.passWrite w be v).coder = s.coder := rfl
@[simp] theorem State.passWrite_render (s : State) (w : Nat) (be : BitVec 4) (v : Word) : (s.passWrite w be v).render = s.render := rfl
@[simp] theorem State.passWrite_lines (s : State) (w : Nat) (be : BitVec 4) (v : Word) : (s.passWrite w be v).lines = s.lines := rfl
@[simp] theorem State.passWrite_sessions (s : State) (w : Nat) (be : BitVec 4) (v : Word) : (s.passWrite w be v).sessions = s.sessions := rfl
@[simp] theorem State.passWrite_stationId (s : State) (w : Nat) (be : BitVec 4) (v : Word) : (s.passWrite w be v).stationId = s.stationId := rfl
@[simp] theorem State.passWrite_dispatch (s : State) (w : Nat) (be : BitVec 4) (v : Word) : (s.passWrite w be v).dispatch = s.dispatch := rfl
@[simp] theorem State.passWrite_charge (s : State) (w : Nat) (be : BitVec 4) (v : Word) : (s.passWrite w be v).charge = s.charge := rfl
@[simp] theorem State.passWrite_clock (s : State) (w : Nat) (be : BitVec 4) (v : Word) : (s.passWrite w be v).clock = s.clock := rfl
@[simp] theorem State.passWrite_command (s : State) (w : Nat) (be : BitVec 4) (v : Word) : (s.passWrite w be v).command = s.command := rfl
@[simp] theorem State.passWrite_report (s : State) (w : Nat) (be : BitVec 4) (v : Word) : (s.passWrite w be v).report = s.report := rfl
@[simp] theorem State.passWrite_guard (s : State) (w : Nat) (be : BitVec 4) (v : Word) : (s.passWrite w be v).guard = s.guard := rfl
@[simp] theorem State.passWrite_pending (s : State) (w : Nat) (be : BitVec 4) (v : Word) : (s.passWrite w be v).pending = s.pending := rfl

/-! ## drive -/

@[simp] theorem State.drive_path (s : State) (be : BitVec 4) (v : Word) : (s.drive be v).path = { s.path with readData := mergeBytes s.path.readData be v } := rfl
@[simp] theorem State.drive_mem (s : State) (be : BitVec 4) (v : Word) : (s.drive be v).mem = s.mem := rfl
@[simp] theorem State.drive_store (s : State) (be : BitVec 4) (v : Word) : (s.drive be v).store = s.store := rfl
@[simp] theorem State.drive_coder (s : State) (be : BitVec 4) (v : Word) : (s.drive be v).coder = s.coder := rfl
@[simp] theorem State.drive_render (s : State) (be : BitVec 4) (v : Word) : (s.drive be v).render = s.render := rfl
@[simp] theorem State.drive_lines (s : State) (be : BitVec 4) (v : Word) : (s.drive be v).lines = s.lines := rfl
@[simp] theorem State.drive_sessions (s : State) (be : BitVec 4) (v : Word) : (s.drive be v).sessions = s.sessions := rfl
@[simp] theorem State.drive_stationId (s : State) (be : BitVec 4) (v : Word) : (s.drive be v).stationId = s.stationId := rfl
@[simp] theorem State.drive_dispatch (s : State) (be : BitVec 4) (v : Word) : (s.drive be v).dispatch = s.dispatch := rfl
@[simp] theorem State.drive_charge (s : State) (be : BitVec 4) (v : Word) : (s.drive be v).charge = s.charge := rfl
@[simp] theorem State.drive_clock (s : State) (be : BitVec 4) (v : Word) : (s.drive be v).clock = s.clock := rfl
@[simp] theorem State.drive_command (s : State) (be : BitVec 4) (v : Word) : (s.drive be v).command = s.command := rfl
@[simp] theorem State.drive_report (s : State) (be : BitVec 4) (v : Word) : (s.drive be v).report = s.report := rfl
@[simp] theorem State.drive_guard (s : State) (be : BitVec 4) (v : Word) : (s.drive be v).guard = s.guard := rfl
@[simp] theorem State.drive_pending (s : State) (be : BitVec 4) (v : Word) : (s.drive be v).pending = s.pending := rfl

/-! ## setCall -/

@[simp] theorem State.setCall_path (s : State) (l : Line) (c : Option CallRecord) : (s.setCall l c).path = s.path := rfl
@[simp] theorem State.setCall_mem (s : State) (l : Line) (c : Option CallRecord) : (s.setCall l c).mem = s.mem := rfl
@[simp] theorem State.setCall_store (s : State) (l : Line) (c : Option CallRecord) : (s.setCall l c).store = s.store := rfl
@[simp] theorem State.setCall_coder (s : State) (l : Line) (c : Option CallRecord) : (s.setCall l c).coder = s.coder := rfl
@[simp] theorem State.setCall_render (s : State) (l : Line) (c : Option CallRecord) : (s.setCall l c).render = s.render := rfl
@[simp] theorem State.setCall_lines (s : State) (l : Line) (c : Option CallRecord) : (s.setCall l c).lines = s.lines := rfl
@[simp] theorem State.setCall_sessions (s : State) (l : Line) (c : Option CallRecord) : (s.setCall l c).sessions = s.sessions := rfl
@[simp] theorem State.setCall_stationId (s : State) (l : Line) (c : Option CallRecord) : (s.setCall l c).stationId = s.stationId := rfl
@[simp] theorem State.setCall_dispatch (s : State) (l : Line) (c : Option CallRecord) : (s.setCall l c).dispatch = s.dispatch := rfl
@[simp] theorem State.setCall_charge (s : State) (l : Line) (c : Option CallRecord) : (s.setCall l c).charge = { s.charge with calls := s.charge.calls.set l c } := rfl
@[simp] theorem State.setCall_clock (s : State) (l : Line) (c : Option CallRecord) : (s.setCall l c).clock = s.clock := rfl
@[simp] theorem State.setCall_command (s : State) (l : Line) (c : Option CallRecord) : (s.setCall l c).command = s.command := rfl
@[simp] theorem State.setCall_report (s : State) (l : Line) (c : Option CallRecord) : (s.setCall l c).report = s.report := rfl
@[simp] theorem State.setCall_guard (s : State) (l : Line) (c : Option CallRecord) : (s.setCall l c).guard = s.guard := rfl
@[simp] theorem State.setCall_pending (s : State) (l : Line) (c : Option CallRecord) : (s.setCall l c).pending = s.pending := rfl

/-! ## setDesk -/

@[simp] theorem State.setDesk_path (s : State) (d : Nat) (x : Desk) : (s.setDesk d x).path = s.path := rfl
@[simp] theorem State.setDesk_mem (s : State) (d : Nat) (x : Desk) : (s.setDesk d x).mem = s.mem := rfl
@[simp] theorem State.setDesk_store (s : State) (d : Nat) (x : Desk) : (s.setDesk d x).store = s.store := rfl
@[simp] theorem State.setDesk_coder (s : State) (d : Nat) (x : Desk) : (s.setDesk d x).coder = s.coder := rfl
@[simp] theorem State.setDesk_render (s : State) (d : Nat) (x : Desk) : (s.setDesk d x).render = s.render := rfl
@[simp] theorem State.setDesk_lines (s : State) (d : Nat) (x : Desk) : (s.setDesk d x).lines = s.lines := rfl
@[simp] theorem State.setDesk_sessions (s : State) (d : Nat) (x : Desk) : (s.setDesk d x).sessions = s.sessions := rfl
@[simp] theorem State.setDesk_stationId (s : State) (d : Nat) (x : Desk) : (s.setDesk d x).stationId = s.stationId := rfl
@[simp] theorem State.setDesk_dispatch (s : State) (d : Nat) (x : Desk) : (s.setDesk d x).dispatch = s.dispatch := rfl
@[simp] theorem State.setDesk_clock (s : State) (d : Nat) (x : Desk) : (s.setDesk d x).clock = s.clock := rfl
@[simp] theorem State.setDesk_command (s : State) (d : Nat) (x : Desk) : (s.setDesk d x).command = s.command := rfl
@[simp] theorem State.setDesk_report (s : State) (d : Nat) (x : Desk) : (s.setDesk d x).report = s.report := rfl
@[simp] theorem State.setDesk_guard (s : State) (d : Nat) (x : Desk) : (s.setDesk d x).guard = s.guard := rfl
@[simp] theorem State.setDesk_pending (s : State) (d : Nat) (x : Desk) : (s.setDesk d x).pending = s.pending := rfl

/-! ## leavePort -/

@[simp] theorem State.leavePort_mem (s : State) (r : Requester) : (s.leavePort r).mem = s.mem := rfl
@[simp] theorem State.leavePort_store (s : State) (r : Requester) : (s.leavePort r).store = s.store := rfl
@[simp] theorem State.leavePort_coder (s : State) (r : Requester) : (s.leavePort r).coder = s.coder := rfl
@[simp] theorem State.leavePort_render (s : State) (r : Requester) : (s.leavePort r).render = s.render := rfl
@[simp] theorem State.leavePort_lines (s : State) (r : Requester) : (s.leavePort r).lines = s.lines := rfl
@[simp] theorem State.leavePort_sessions (s : State) (r : Requester) : (s.leavePort r).sessions = s.sessions := rfl
@[simp] theorem State.leavePort_stationId (s : State) (r : Requester) : (s.leavePort r).stationId = s.stationId := rfl
@[simp] theorem State.leavePort_dispatch (s : State) (r : Requester) : (s.leavePort r).dispatch = s.dispatch := rfl
@[simp] theorem State.leavePort_charge (s : State) (r : Requester) : (s.leavePort r).charge = s.charge := rfl
@[simp] theorem State.leavePort_clock (s : State) (r : Requester) : (s.leavePort r).clock = s.clock := rfl
@[simp] theorem State.leavePort_command (s : State) (r : Requester) : (s.leavePort r).command = s.command := rfl
@[simp] theorem State.leavePort_report (s : State) (r : Requester) : (s.leavePort r).report = s.report := rfl
@[simp] theorem State.leavePort_guard (s : State) (r : Requester) : (s.leavePort r).guard = s.guard := rfl
@[simp] theorem State.leavePort_pending (s : State) (r : Requester) : (s.leavePort r).pending = s.pending := rfl
@[simp] theorem State.leavePort_postings (s : State) (r : Requester) : (s.leavePort r).path.postings = s.path.postings := rfl
@[simp] theorem State.leavePort_straps (s : State) (r : Requester) : (s.leavePort r).path.straps = s.path.straps := rfl
@[simp] theorem State.leavePort_regions (s : State) (r : Requester) : (s.leavePort r).path.regions = s.path.regions := rfl
@[simp] theorem State.leavePort_holdLimit (s : State) (r : Requester) : (s.leavePort r).path.holdLimit = s.path.holdLimit := rfl
@[simp] theorem State.leavePort_held (s : State) (r : Requester) : (s.leavePort r).path.held = s.path.held := rfl
@[simp] theorem State.leavePort_atPort (s : State) (r : Requester) : (s.leavePort r).path.atPort = s.path.atPort := rfl
@[simp] theorem State.leavePort_stalled (s : State) (r : Requester) : (s.leavePort r).path.stalled = s.path.stalled := rfl
@[simp] theorem State.leavePort_headHanded (s : State) (r : Requester) : (s.leavePort r).path.headHanded = s.path.headHanded := rfl
@[simp] theorem State.leavePort_waiting (s : State) (r : Requester) : (s.leavePort r).path.waiting = s.path.waiting := rfl
@[simp] theorem State.leavePort_heard (s : State) (r : Requester) : (s.leavePort r).path.heard = s.path.heard := rfl
@[simp] theorem State.leavePort_run (s : State) (r : Requester) : (s.leavePort r).path.run = s.path.run := rfl
@[simp] theorem State.leavePort_readData (s : State) (r : Requester) : (s.leavePort r).path.readData = s.path.readData := rfl
@[simp] theorem State.leavePort_requests (s : State) (r : Requester) : (s.leavePort r).path.requests = s.path.requests.leave r := rfl

/-! ## reach -/

@[simp] theorem State.reach_path (s : State) (t : Option Nat) : (s.reach t).path = s.path := by cases t <;> rfl
@[simp] theorem State.reach_mem (s : State) (t : Option Nat) : (s.reach t).mem = s.mem := by cases t <;> rfl
@[simp] theorem State.reach_store (s : State) (t : Option Nat) : (s.reach t).store = s.store := by cases t <;> rfl
@[simp] theorem State.reach_coder (s : State) (t : Option Nat) : (s.reach t).coder = s.coder := by cases t <;> rfl
@[simp] theorem State.reach_render (s : State) (t : Option Nat) : (s.reach t).render = s.render := by cases t <;> rfl
@[simp] theorem State.reach_lines (s : State) (t : Option Nat) : (s.reach t).lines = s.lines := by cases t <;> rfl
@[simp] theorem State.reach_sessions (s : State) (t : Option Nat) : (s.reach t).sessions = s.sessions := by cases t <;> rfl
@[simp] theorem State.reach_stationId (s : State) (t : Option Nat) : (s.reach t).stationId = s.stationId := by cases t <;> rfl
@[simp] theorem State.reach_dispatch (s : State) (t : Option Nat) : (s.reach t).dispatch = s.dispatch := by cases t <;> rfl
@[simp] theorem State.reach_charge (s : State) (t : Option Nat) : (s.reach t).charge = s.charge := by cases t <;> rfl
@[simp] theorem State.reach_command (s : State) (t : Option Nat) : (s.reach t).command = s.command := by cases t <;> rfl
@[simp] theorem State.reach_report (s : State) (t : Option Nat) : (s.reach t).report = s.report := by cases t <;> rfl
@[simp] theorem State.reach_guard (s : State) (t : Option Nat) : (s.reach t).guard = s.guard := by cases t <;> rfl
@[simp] theorem State.reach_pending (s : State) (t : Option Nat) : (s.reach t).pending = s.pending := by cases t <;> rfl
@[simp] theorem State.reach_now (s : State) (t : Option Nat) : (s.reach t).clock.now = max s.clock.now (t.getD 0) := by
  cases t <;> simp [State.reach]

/-! ## endReads, endRun and addItem: the traffic of the port only -/

@[simp] theorem State.endReads_path (s : State) : s.endReads.path = { s.path with heard := [] } := rfl
@[simp] theorem State.endRun_path (s : State) : s.endRun.path = { s.path with run := none } := rfl
@[simp] theorem State.endReads_mem (s : State) : s.endReads.mem = s.mem := rfl
@[simp] theorem State.endReads_store (s : State) : s.endReads.store = s.store := rfl
@[simp] theorem State.endReads_coder (s : State) : s.endReads.coder = s.coder := rfl
@[simp] theorem State.endReads_render (s : State) : s.endReads.render = s.render := rfl
@[simp] theorem State.endReads_lines (s : State) : s.endReads.lines = s.lines := rfl
@[simp] theorem State.endReads_sessions (s : State) : s.endReads.sessions = s.sessions := rfl
@[simp] theorem State.endReads_stationId (s : State) : s.endReads.stationId = s.stationId := rfl
@[simp] theorem State.endReads_dispatch (s : State) : s.endReads.dispatch = s.dispatch := rfl
@[simp] theorem State.endReads_charge (s : State) : s.endReads.charge = s.charge := rfl
@[simp] theorem State.endReads_clock (s : State) : s.endReads.clock = s.clock := rfl
@[simp] theorem State.endReads_command (s : State) : s.endReads.command = s.command := rfl
@[simp] theorem State.endReads_report (s : State) : s.endReads.report = s.report := rfl
@[simp] theorem State.endReads_guard (s : State) : s.endReads.guard = s.guard := rfl
@[simp] theorem State.endReads_pending (s : State) : s.endReads.pending = s.pending := rfl
@[simp] theorem State.endRun_mem (s : State) : s.endRun.mem = s.mem := rfl
@[simp] theorem State.endRun_store (s : State) : s.endRun.store = s.store := rfl
@[simp] theorem State.endRun_coder (s : State) : s.endRun.coder = s.coder := rfl
@[simp] theorem State.endRun_render (s : State) : s.endRun.render = s.render := rfl
@[simp] theorem State.endRun_lines (s : State) : s.endRun.lines = s.lines := rfl
@[simp] theorem State.endRun_sessions (s : State) : s.endRun.sessions = s.sessions := rfl
@[simp] theorem State.endRun_stationId (s : State) : s.endRun.stationId = s.stationId := rfl
@[simp] theorem State.endRun_dispatch (s : State) : s.endRun.dispatch = s.dispatch := rfl
@[simp] theorem State.endRun_charge (s : State) : s.endRun.charge = s.charge := rfl
@[simp] theorem State.endRun_clock (s : State) : s.endRun.clock = s.clock := rfl
@[simp] theorem State.endRun_command (s : State) : s.endRun.command = s.command := rfl
@[simp] theorem State.endRun_report (s : State) : s.endRun.report = s.report := rfl
@[simp] theorem State.endRun_guard (s : State) : s.endRun.guard = s.guard := rfl
@[simp] theorem State.endRun_pending (s : State) : s.endRun.pending = s.pending := rfl
@[simp] theorem State.addItem_store (s : State) (item : PostItem) : (s.addItem item).store = s.store := rfl
@[simp] theorem State.addItem_coder (s : State) (item : PostItem) : (s.addItem item).coder = s.coder := rfl
@[simp] theorem State.addItem_render (s : State) (item : PostItem) : (s.addItem item).render = s.render := rfl
@[simp] theorem State.addItem_lines (s : State) (item : PostItem) : (s.addItem item).lines = s.lines := rfl
@[simp] theorem State.addItem_sessions (s : State) (item : PostItem) : (s.addItem item).sessions = s.sessions := rfl
@[simp] theorem State.addItem_stationId (s : State) (item : PostItem) : (s.addItem item).stationId = s.stationId := rfl
@[simp] theorem State.addItem_dispatch (s : State) (item : PostItem) : (s.addItem item).dispatch = s.dispatch := rfl
@[simp] theorem State.addItem_charge (s : State) (item : PostItem) : (s.addItem item).charge = s.charge := rfl
@[simp] theorem State.addItem_clock (s : State) (item : PostItem) : (s.addItem item).clock = s.clock := rfl
@[simp] theorem State.addItem_command (s : State) (item : PostItem) : (s.addItem item).command = s.command := rfl
@[simp] theorem State.addItem_report (s : State) (item : PostItem) : (s.addItem item).report = s.report := rfl
@[simp] theorem State.addItem_guard (s : State) (item : PostItem) : (s.addItem item).guard = s.guard := rfl
@[simp] theorem State.addItem_pending (s : State) (item : PostItem) : (s.addItem item).pending = s.pending := rfl

/-! ## askPort: the end of every event -/

@[simp] theorem State.askPort_mem (s : State) : s.askPort.mem = s.mem := rfl
@[simp] theorem State.askPort_store (s : State) : s.askPort.store = s.store := rfl
@[simp] theorem State.askPort_coder (s : State) : s.askPort.coder = s.coder := rfl
@[simp] theorem State.askPort_render (s : State) : s.askPort.render = s.render := rfl
@[simp] theorem State.askPort_lines (s : State) : s.askPort.lines = s.lines := rfl
@[simp] theorem State.askPort_sessions (s : State) : s.askPort.sessions = s.sessions := rfl
@[simp] theorem State.askPort_stationId (s : State) : s.askPort.stationId = s.stationId := rfl
@[simp] theorem State.askPort_dispatch (s : State) : s.askPort.dispatch = s.dispatch := rfl
@[simp] theorem State.askPort_charge (s : State) : s.askPort.charge = s.charge := rfl
@[simp] theorem State.askPort_clock (s : State) : s.askPort.clock = s.clock := rfl
@[simp] theorem State.askPort_command (s : State) : s.askPort.command = s.command := rfl
@[simp] theorem State.askPort_report (s : State) : s.askPort.report = s.report := rfl
@[simp] theorem State.askPort_guard (s : State) : s.askPort.guard = s.guard := rfl
@[simp] theorem State.askPort_pending (s : State) : s.askPort.pending = s.pending := rfl
@[simp] theorem State.askPort_postings (s : State) : s.askPort.path.postings = s.path.postings := rfl
@[simp] theorem State.askPort_straps (s : State) : s.askPort.path.straps = s.path.straps := rfl
@[simp] theorem State.askPort_regions (s : State) : s.askPort.path.regions = s.path.regions := rfl
@[simp] theorem State.askPort_held (s : State) : s.askPort.path.held = s.path.held := rfl
@[simp] theorem State.askPort_atPort (s : State) : s.askPort.path.atPort = s.path.atPort := rfl
@[simp] theorem State.askPort_stalled (s : State) : s.askPort.path.stalled = s.path.stalled := rfl
@[simp] theorem State.askPort_headHanded (s : State) : s.askPort.path.headHanded = s.path.headHanded := rfl
@[simp] theorem State.askPort_waiting (s : State) : s.askPort.path.waiting = s.path.waiting := rfl
@[simp] theorem State.askPort_heard (s : State) : s.askPort.path.heard = s.path.heard := rfl
@[simp] theorem State.askPort_run (s : State) : s.askPort.path.run = s.path.run := rfl
@[simp] theorem State.settle_eq (s : State) : s.settle = .next s.askPort := rfl

/-! ## The tables -/

theorem PageTable.get_put (t : PageTable) (n m : Nat) (x : Option Page) (h : 1 ≤ n) (hn : n ≤ 255) :
    (t.put n x).get m = if m = n then x else t.get m := by
  unfold PageTable.put PageTable.get
  by_cases hm : m = 0
  · have : m ≠ n := by omega
    simp [hm]
    omega
  · rw [if_neg (by omega : ¬ n = 0), if_neg hm, if_neg hm]
    by_cases e : m = n
    · subst e
      have : m - 1 < 255 := by omega
      simp [this]
    · have : ¬ n - 1 = m - 1 := by omega
      simp [e, this]

@[simp] theorem PageTable.get_zero (t : PageTable) : t.get 0 = none := rfl

theorem State.page_setPage (s : State) (n m : Nat) (x : Option Page) (h : 1 ≤ n) (hn : n ≤ 255) :
    (s.setPage n x).page m = if m = n then x else s.page m := PageTable.get_put _ _ _ _ h hn

end Sys2Proof.Machine
end

