-- ==== Sys2Proof/Laws/Port.lean ====
section
/-! SUPPORT. The laws of the DRAM port and of events that wait: what a word of the controller bus does when it
is granted at once and when it waits (R178, R179), and what an event's reads, and its wait for room in the list, leave
(R176). -/

namespace Sys2Proof.Machine

/-! ## The grant (R179) -/

/-- The request that has waited longest is one of them, and none has waited longer. -/
theorem longest_spec : ∀ l : List (Requester × Nat),
    match longest l with
    | none => l = []
    | some p => p ∈ l ∧ ∀ q ∈ l, p.2 ≤ q.2
  | [] => rfl
  | p :: ps => by
    have ih := longest_spec ps
    unfold longest
    cases h : longest ps with
    | none => rw [h] at ih; simp [ih]
    | some q =>
      rw [h] at ih
      dsimp only at ih ⊢
      by_cases hq : q.2 < p.2
      · rw [if_pos hq]
        refine ⟨List.mem_cons_of_mem _ ih.1, fun r hr => ?_⟩
        rcases List.mem_cons.mp hr with rfl | hr
        · omega
        · exact ih.2 r hr
      · rw [if_neg hq]
        refine ⟨List.mem_cons_self, fun r hr => ?_⟩
        rcases List.mem_cons.mp hr with rfl | hr
        · omega
        · have := ih.2 r hr; omega

/-- The bus is granted when it asks and no engine has waited 2 µs, and otherwise one of the engines that wait. -/
theorem portGrant_spec (r : Requests) (now : Nat) :
    match r.grant now with
    | none => r.bus = none ∧ r.engines = []
    | some e =>
      (e = .bus ∧ r.bus.isSome ∧ ∀ p ∈ r.engines, now < p.2 + 20) ∨
        (∃ p ∈ r.engines, e = p.1 ∧ (∀ q ∈ r.engines, p.2 ≤ q.2) ∧ (r.bus = none ∨ p.2 + 20 ≤ now)) := by
  have h := longest_spec r.engines
  unfold Requests.grant
  cases hl : longest r.engines with
  | none =>
    rw [hl] at h
    dsimp only at h
    cases hb : r.bus <;> simp [h]
  | some p =>
    rw [hl] at h
    obtain ⟨e, t⟩ := p
    obtain ⟨hm, hle⟩ := h
    dsimp only at hle ⊢
    by_cases ht : t + Config.engineWait ≤ now
    · rw [if_pos ht]
      exact .inr ⟨_, hm, rfl, hle, .inr ht⟩
    · rw [if_neg ht]
      have hw : Config.engineWait = 20 := rfl
      cases hb : r.bus with
      | none => exact .inr ⟨_, hm, rfl, hle, .inl rfl⟩
      | some b => exact .inl ⟨rfl, rfl, fun q hq => by have := hle q hq; omega⟩

@[simp] theorem Requests.engines_bus (r : Requests) (b : Option Nat) : ({ r with bus := b } : Requests).engines = r.engines := rfl

theorem Requests.engines_ne_bus (r : Requests) : ∀ p ∈ r.engines, p.1 ≠ .bus := by
  intro p hp
  simp only [Requests.engines, List.mem_filterMap, List.mem_cons, List.not_mem_nil, or_false] at hp
  obtain ⟨q, rfl | rfl | rfl | rfl | rfl, hq⟩ := hp <;> simp only [Option.map_eq_some_iff] at hq <;>
    obtain ⟨_, _, rfl⟩ := hq <;> exact Requester.noConfusion

/-- A grant makes the access of its requester when the port is free and the waits pick it, and is no event otherwise. -/
theorem State.grantPort_spec (s : State) (e : Requester) :
    (s.path.headHanded = false → s.openRun = none → s.path.requests.grant s.clock.now = some e →
        s.grantPort e = s.takePort e) ∧
      (s.path.headHanded = true ∨ s.openRun ≠ none ∨ s.path.requests.grant s.clock.now ≠ some e → s.grantPort e = s) := by
  unfold State.grantPort State.picks State.portIdle
  refine ⟨fun h ho hg => by simp [h, ho, hg], fun h => ?_⟩
  rcases h with h | h | h
  · simp [h]
  · cases ho : s.openRun with
    | none => exact absurd ho h
    | some r => simp
  · simp [h]

/-- The access of the bus is under way at the instant of its last word, as long as it can take more. -/
theorem State.openRun_eq_some {s : State} {r : BusRun} :
    s.openRun = some r ↔ s.path.run = some r ∧ r.since = s.clock.now ∧ 0 < r.left := by
  simp [State.openRun, Option.filter_eq_some_iff]

/-- A request that the bus makes now is granted at once exactly when no item is at the port and no engine has waited
2 µs. -/
theorem State.busGoesFirst_iff (s : State) :
    s.busGoesFirst = true ↔ s.path.headHanded = false ∧ ∀ p ∈ s.path.requests.engines, s.clock.now < p.2 + 20 := by
  have h := portGrant_spec { s.path.requests with bus := some s.clock.now } s.clock.now
  simp only [State.busGoesFirst, Bool.and_eq_true, Bool.not_eq_true', beq_iff_eq]
  refine and_congr_right fun _ => ⟨fun e => ?_, fun hall => ?_⟩
  · rw [e] at h
    rcases h with ⟨_, _, h⟩ | ⟨p, hp, hb, _⟩
    · simpa using h
    · exact absurd hb.symm (Requests.engines_ne_bus _ p hp)
  · cases hg : Requests.grant { s.path.requests with bus := some s.clock.now } s.clock.now with
    | none => rw [hg] at h; simp at h
    | some e =>
      rw [hg] at h
      rcases h with ⟨rfl, _⟩ | ⟨p, hp, _, _, hw⟩
      · rfl
      · rcases hw with hw | hw
        · simp at hw
        · have := hall p (by simpa using hp); omega

theorem State.busGoesFirst_of_portFree {s : State} (h : s.portFree) : s.busGoesFirst = true :=
  s.busGoesFirst_iff.mpr h.2

theorem State.busGoesFirst_of_portBusy {s : State} (h : s.portBusy) : s.busGoesFirst = false := by
  rw [Bool.eq_false_iff, Ne, State.busGoesFirst_iff]
  rintro ⟨h1, h2⟩
  rcases h with h | ⟨p, hp, h⟩
  · simp [h1] at h
  · have := h2 p hp; omega

/-! ## Words of the bus (R171, R174, R178) -/

/-- A word made while the bus has none held and none at the port, and the port is free, has its turn. -/
theorem State.busAccess_of_portFree {s : State} {op : BusOp} (held : s.path.held = none) (h : s.portFree) :
    s.busAccess op = s.takeWord op := by
  simp [State.busAccess, held, h.1, State.busGoesFirst_of_portFree h]

/-- A word that does not pass needs no grant. -/
theorem State.busAccess_of_noPort {s : State} {op : BusOp} (held : s.path.held = none) (at_ : s.path.atPort = none)
    (h : s.usesPort op = false ∨ s.mustHold op = true) : s.busAccess op = s.takeWord op := by
  rcases h with h | h <;> simp [State.busAccess, held, at_, h]

/-- A word that passes waits at a busy port. -/
theorem State.waitsAtPort_busAccess {s : State} {op : BusOp} (held : s.path.held = none) (at_ : s.path.atPort = none)
    (uses : s.usesPort op = true) (free : s.mustHold op = false) (h : s.portBusy) :
    s.waitsAtPort (s.busAccess op).askPort op := by
  have e : s.busAccess op =
      { s with path := { s.path with atPort := some op, requests := { s.path.requests with bus := some s.clock.now } } } := by
    simp [State.busAccess, State.waitForGrant, held, at_, uses, free, State.busGoesFirst_of_portBusy h]
  rw [e]
  exact ⟨⟨by constructor <;> simp [State.askPort], rfl, rfl, rfl⟩, rfl⟩

theorem State.resumeBus_nil {s : State} (h : s.path.stalled = []) : s.resumeBus = s := by
  unfold State.resumeBus
  split
  · rfl
  · rw [h, List.foldl_nil, ← h]

/-! ## Reads in events (R176) -/

theorem State.accessesMade.refl (s : State) : s.accessesMade s := rfl

theorem State.accessesMade.trans {s t u : State} (h : s.accessesMade t) (k : t.accessesMade u) : s.accessesMade u := by
  have e : t.withAccesses u = (s.withAccesses t).withAccesses u := congrArg (fun x : State => x.withAccesses u) h
  exact Eq.trans k (e.trans rfl)

theorem State.accessesMade_handHead (s : State) : s.accessesMade s.handHead := by
  unfold State.handHead
  split
  · exact .refl s
  · rename_i item rest _
    cases item with
    | write w v => rfl
    | read w n a => cases a <;> rfl

theorem State.accessesMade_addItem (s : State) (item : PostItem) : s.accessesMade (s.addItem item) := by
  rfl

theorem State.accessesMade_askReads (s : State) (a : Asker) (reads : List (Nat × Nat)) : s.accessesMade (s.askReads a reads) := by
  unfold State.askReads
  induction reads generalizing s with
  | nil => exact .refl s
  | cons r reads ih => exact (s.accessesMade_addItem _).trans (ih _)

/-- The access of an engine or of the poster. -/
theorem State.accessesMade_portAccess (s : State) {e : Requester} (h : e ≠ .bus) : s.accessesMade (s.portAccess e) := by
  cases e with
  | bus => exact absurd rfl h
  | coder => unfold State.portAccess State.coderAccess; dsimp only; split <;> rfl
  | decoder => unfold State.portAccess State.decoderAccess; dsimp only; split <;> rfl
  | sessionA => unfold State.portAccess State.sessionAccess; dsimp only; split <;> rfl
  | sessionB => unfold State.portAccess State.sessionAccess; dsimp only; split <;> rfl
  | poster => rfl

theorem State.busQuiet_of_accessesMade {s t : State} (h : s.accessesMade t) (q : s.busQuiet) : t.busQuiet := by
  rw [h]; exact q

/-- With no word of the bus at the port, the bus makes no access. -/
theorem State.busStep_of_busQuiet {s : State} (q : s.busQuiet) (desks : List Nat) : s.busStep desks = s.leavePort .bus := by
  have e : ({ s with path := { s.path with stalled := [] } } : State) = s := by
    rw [← q.2]
  have p : (s.leavePort .bus).portAccess .bus = s.leavePort .bus := by
    simp only [State.portAccess, State.portWord, State.leavePort_atPort, q.1]
  simp only [State.busStep, q.2, List.takeWhile_nil, List.dropWhile_nil, e, p, List.append_nil]
  rw [State.resumeBus_nil (s := s.leavePort .bus) (by simpa using q.2)]

/-- With no word of the bus at the port, one access while an event waits is the poster's or an engine's. -/
theorem State.accessesMade_portStep {s : State} (q : s.busQuiet) (desks : List Nat) : s.accessesMade (s.portStep desks) := by
  unfold State.portStep
  split
  · exact s.accessesMade_handHead.trans rfl
  · dsimp only
    split
    · rfl
    · rw [State.busStep_of_busQuiet (s := s.endRun) q]
      rfl
    · rename_i e he _
      refine State.accessesMade.trans (t := s.endRun.leavePort e) rfl (State.accessesMade.trans (State.accessesMade_portAccess _ ?_) rfl)
      rintro rfl
      exact he rfl

theorem State.accessesMade_portSteps (desks : List Nat) :
    ∀ (n : Nat) {s : State}, s.busQuiet → s.accessesMade (State.portSteps desks n s)
  | 0, _, _ => rfl
  | n + 1, s, q => by
    unfold State.portSteps
    split
    · have h := State.accessesMade_portStep q desks
      exact h.trans (State.accessesMade_portSteps desks n (State.busQuiet_of_accessesMade h q))
    · exact .refl s

/-- R176: with no word of the bus at the port, the reads of an event leave nothing but accesses of the poster and of the
engines. -/
theorem State.accessesMade_readNow {s : State} (q : s.busQuiet) (desks : List Nat) (a : Asker) (reads : List (Nat × Nat)) :
    s.accessesMade (s.readNow desks a reads) := by
  have h := (s.accessesMade_askReads a reads).trans (u := (s.askReads a reads).askPort) rfl
  exact h.trans (State.accessesMade_portSteps desks _ (State.busQuiet_of_accessesMade h q))

/-! ## Room in the list (R176) -/

/-- An empty list has room for whatever an event adds. -/
theorem State.findsRoom_of_items {s : State} (h : s.path.items = []) (act : State → State) : s.findsRoom act = true := by
  simp [State.findsRoom, h]

/-- An event that leaves what stands behind the list as it is finds room: one that adds nothing, and one whose items find
room. -/
theorem State.findsRoom_of_waiting {s : State} {act : State → State} (h : (act s).path.waiting = s.path.waiting) :
    s.findsRoom act = true := by
  simp [State.findsRoom, h]

/-- An event that finds room does not wait. -/
theorem State.awaitRoom_eq {s : State} {act : State → State} (h : s.findsRoom act = true) (desks : List Nat) :
    s.awaitRoom desks act = s := by
  simp [State.awaitRoom, h]

theorem State.awaited_eq {s : State} {act : State → State} (h : s.findsRoom act = true) (desks : List Nat) :
    s.awaited desks act = act s := by
  simp [State.awaited, State.awaitRoom_eq h]

/-- The row of an event that finds room is the event. -/
theorem State.event_eq {s : State} {act : State → State} (h : s.findsRoom act = true) : s.event act = act s := by
  simp [State.event, State.awaitRoom_eq h, h]

theorem State.busRow_eq {s : State} {act : State → State} (h : s.findsRoom act = true) :
    s.busRow act = (act s).roomChoice s := by
  simp [State.busRow, State.awaited_eq h, h]

/-- With no word behind the one at the port there is none to decide. -/
theorem State.settleBus_eq {s : State} (h : s.path.stalled = []) : s.settleBus = s.settle := by
  have e := State.resumeBus_nil h
  rw [State.settleBus, State.awaited_eq (State.findsRoom_of_waiting (by rw [e])), e]

/-- With no word of the bus at the port, the wait for room leaves nothing but accesses of the poster and of the engines. -/
theorem State.accessesMade_roomSteps (desks : List Nat) (act : State → State) :
    ∀ (n : Nat) {s : State}, s.busQuiet → s.accessesMade (State.roomSteps desks act n s)
  | 0, _, _ => rfl
  | n + 1, s, q => by
    unfold State.roomSteps
    split
    · exact .refl s
    · have h := State.accessesMade_portStep q desks
      exact h.trans (State.accessesMade_roomSteps desks act n (State.busQuiet_of_accessesMade h q))

theorem State.accessesMade_awaitRoom {s : State} (q : s.busQuiet) (desks : List Nat) (act : State → State) :
    s.accessesMade (s.awaitRoom desks act) := by
  unfold State.awaitRoom
  split
  · exact .refl s
  · exact State.accessesMade.trans (t := s.askPort) rfl (State.accessesMade_roomSteps desks act _ q)

/-! ## What follows an event -/

/-- With no entry arrived there is none to take. -/
theorem State.takeFetched_eq {s : State} (h : s.command.fetched = none) : s.takeFetched = s := by
  have e : s.takeArrived = s := by simp [State.takeArrived, h]
  rw [State.takeFetched, State.awaited_eq (State.findsRoom_of_waiting (by rw [e])), e]

/-- R123: with no choice to make the state stays. -/
theorem State.makeChoice_eq {s : State} (h : s.choiceLine = none) : s.makeChoice = s := by
  simp [State.makeChoice, h]

theorem State.choiceRow_eq {s : State} (h : s.choiceLine = none) : s.choiceRow = s := by
  simp [State.choiceRow, h]

/-- R125: with no room returned there is no choice. -/
theorem State.roomChoice_eq {s before : State} (h : before.roomReturned s = false) : s.roomChoice before = s := by
  simp [State.roomChoice, h]

/-- Room returns only where the call log's indices or its open records change. -/
theorem State.roomReturned_of_charge {s t : State} (h : t.charge = s.charge) : s.roomReturned t = false := by
  simp [State.roomReturned, h]

/-- R123: a cancel of recipients for whom no seize is asked takes none first. -/
theorem State.seizeFirst_eq {s : State} {j : Nat} {which : Nat → Bool}
    (h : ∀ l i, s.dispatch.asked = some (l, j, i) → which i = false) : s.seizeFirst j which = s := by
  unfold State.seizeFirst State.takeSeizes
  split
  · rfl
  · rename_i l j' i e
    split
    · rename_i hw
      obtain ⟨rfl, hw⟩ := hw
      rw [h l i e] at hw
      cases hw
    · rfl

end Sys2Proof.Machine
end

