-- ==== Sys2Proof/Laws/Sessions.lean ====
section
/-! SUPPORT. The laws of the session engines' shared operations: a change of a context with its posting
(R86), and what a good frame does before its rule (R83, R102). -/

namespace Sys2Proof.Machine

/-! ## One line of two -/

@[simp] theorem PerLine.get_set {α : Type} (p : PerLine α) (l : Line) (x : α) : (p.set l x).get l = x := by cases l <;> rfl

theorem PerLine.get_set_ne {α : Type} (p : PerLine α) {l m : Line} (h : m ≠ l) (x : α) : (p.set l x).get m = p.get m := by
  cases l <;> cases m <;> first | rfl | exact absurd rfl h

@[simp] theorem PerLine.set_get {α : Type} (p : PerLine α) (l : Line) : p.set l (p.get l) = p := by cases l <;> rfl

@[simp] theorem PerLine.set_set {α : Type} (p : PerLine α) (l : Line) (x y : α) : (p.set l x).set l y = p.set l y := by
  cases l <;> rfl

/-! ## The context -/

@[simp] theorem State.session_setSession (s : State) (l : Line) (x : Session) : (s.setSession l x).session l = x :=
  PerLine.get_set _ _ _

@[simp] theorem State.setSession_setSession (s : State) (l : Line) (x y : Session) :
    (s.setSession l x).setSession l y = s.setSession l y := by
  simp [State.setSession]

@[simp] theorem State.setSession_session (s : State) (l : Line) : s.setSession l (s.session l) = s := by
  simp [State.setSession, State.session]

/-- Contexts that show the same fields have the same session word. -/
theorem statusSession_of_shown {x y : Session} (h : x.shown = y.shown) : statusSession x = statusSession y := by
  simp only [Session.shown, Prod.mk.injEq] at h
  obtain ⟨h1, h2, h3, h4, h5, h6⟩ := h
  simp [statusSession, h1, h2, h3, h4, h5, h6]

/-- What a change of a context does: the context, and its word when a field shown changes. -/
theorem State.posts_putSession (s : State) (l : Line) (x : Session) :
    (s.setSession l x).PostsWords (s.putSession l x)
      (if x.shown = (s.session l).shown then fun _ => none
       else atWord (s.path.straps.controlBase + sessionPlace l) (statusSession x)) := by
  unfold State.putSession
  split
  · exact (State.Handed.refl _).posts
  · have h := (s.setSession l x).posts_post (sessionPlace l) (statusSession x)
    simp only [State.postSession, State.session_setSession]
    exact h

/-- A row that ends in a change of a context changes nothing else. -/
theorem State.sessionOnly_putSession (s : State) (l : Line) (x : Session) (wf : Memory.wf s.mem = true) :
    s.sessionOnly (s.putSession l x).askPort l s.clock.now x := by
  have h := (s.posts_putSession l x).trans (State.handed_askPort _).posts
  refine ⟨h.moves wf fun w hw => ?_, fun hne => ?_⟩
  · have := hw (sessionPlace l) (by simp)
    simp only [Option.none_or]
    split
    · rfl
    · exact if_neg this
  · rw [h.settledAt (s := s.setSession l x) wf]
    have : ¬ x.shown = (s.session l).shown := fun e => hne (statusSession_of_shown e)
    simp [this, atWord, State.setSession]

/-- A row that changes a context and shows nothing new posts nothing. -/
theorem State.sessionOnly_setSession (s : State) (l : Line) (x : Session) (h : x.shown = (s.session l).shown)
    (wf : Memory.wf s.mem = true) : s.sessionOnly (s.setSession l x).askPort l s.clock.now x := by
  have := s.sessionOnly_putSession l x wf
  rwa [State.putSession, if_pos h] at this

/-! ## Good frames -/

theorem State.goodFrame_eq (s : State) (l : Line) : s.goodFrame l = s.setSession l ((s.session l).heard s.clock.now) := by
  unfold State.goodFrame Session.heard
  dsimp only
  split
  · rfl
  · simp

@[simp] theorem Session.heard_shown (x : Session) (n : Nat) : (x.heard n).shown = x.shown := by
  unfold Session.heard; split <;> rfl
@[simp] theorem Session.heard_role (x : Session) (n : Nat) : (x.heard n).role = x.role := by unfold Session.heard; split <;> rfl
@[simp] theorem Session.heard_state (x : Session) (n : Nat) : (x.heard n).state = x.state := by
  unfold Session.heard; split <;> rfl

theorem Session.heard_sender {x : Session} (h : x.role = .sender) (n : Nat) : x.heard n = x := by simp [Session.heard, h]

/-- A context changed after a good frame is changed from what stood before it. -/
theorem State.putSession_goodFrame (s : State) (l : Line) (x : Session) : (s.goodFrame l).putSession l x = s.putSession l x := by
  simp [State.goodFrame_eq, State.putSession, State.session_setSession, State.setSession_setSession]

/-- A frame that its rule does not act on is ignored. -/
theorem State.ignores_goodFrame (s : State) (l : Line) : s.ignores (s.goodFrame l).askPort l := by
  rw [State.goodFrame_eq]
  exact ⟨(State.handed_askPort _).alike, rfl, rfl, rfl⟩

theorem State.untouched_askPort (s : State) : s.untouched s.askPort := ⟨(State.handed_askPort s).alike, rfl, rfl, rfl⟩

end Sys2Proof.Machine
end

