-- ==== Sys2Proof/Laws/Shared.lean ====
section
/-! SUPPORT. One law for each operation that several blocks share: what it changes, and the words it posts. -/

namespace Sys2Proof.Machine

/-! ## Pages (R15, R20, R7, R8) -/

/-- A change of a page's fields: the record, and its words. -/
theorem State.posts_changePage (s : State) (n : Nat) (f : Page → Page) (p : Page) (h : s.page n = some p) :
    (s.setPage n (some (f p))).PostsWords (s.changePage n f)
      (atPlaces s.path.straps.controlBase (placed (pagePlace n) (pageWords ((s.setPage n (some (f p))).page n)))) := by
  have e : s.changePage n f = (s.setPage n (some (f p))).postPage n := by unfold State.changePage; rw [h]
  rw [e]
  exact (s.setPage n (some (f p))).posts_postAll _ _

/-- A record that is FREE is not changed. -/
theorem State.changePage_free (s : State) (n : Nat) (f : Page → Page) (h : s.page n = none) : s.changePage n f = s := by
  unfold State.changePage; rw [h]

/-- The store after the page has left it (R4). -/
def State.pageFreed (s : State) (n : Nat) (p : Page) : State :=
  { s with store := { s.store with free := s.store.free ++ p.chain, pages := s.store.pages.put n none } }

/-- A page leaves the store: its chain at the tail of the free chain, its record FREE, and the words of both. -/
theorem State.posts_freePage (s : State) (n : Nat) (p : Page) (h : s.page n = some p) :
    (s.pageFreed n p).PostsWords (s.freePage n) (fun x =>
      (atWord (s.path.straps.controlBase + (statusPlace + 3)) (statusStore (s.pageFreed n p).store) x).or
        (atPlaces s.path.straps.controlBase (placed (pagePlace n) (pageWords ((s.pageFreed n p).page n))) x)) := by
  have e : s.freePage n = ((s.pageFreed n p).postPage n).postStore := by unfold State.freePage; rw [h]; rfl
  have h1 := (s.pageFreed n p).posts_postAll (pagePlace n) (pageWords ((s.pageFreed n p).page n))
  have h2 := ((s.pageFreed n p).postPage n).posts_post (statusPlace + 3) (statusStore ((s.pageFreed n p).postPage n).store)
  rw [e]
  have k := h1.trans h2
  refine k.congr fun x => ?_
  have a : ((s.pageFreed n p).postPage n).path.straps = s.path.straps := h1.alike.straps
  have b : ((s.pageFreed n p).postPage n).store = (s.pageFreed n p).store := h1.alike.store
  simp only [State.pageFreed] at a b ⊢
  simp only [a, b]

/-- The store after `k` blocks have gone to the page. -/
def State.blocksGiven (s : State) (n k : Nat) (p : Page) : State :=
  { s with store := { s.store with
      free := s.store.free.drop k
      pages := s.store.pages.put n (some { p with chain := p.chain ++ s.store.free.take k }) } }

/-- Blocks leave the free chain at its head and join the page's chain, and the words of both. -/
theorem State.posts_giveBlocks (s : State) (n k : Nat) (p : Page) (h : s.page n = some p) :
    (s.blocksGiven n k p).PostsWords (s.giveBlocks n k) (fun x =>
      (atWord (s.path.straps.controlBase + (statusPlace + 3)) (statusStore (s.blocksGiven n k p).store) x).or
        (atPlaces s.path.straps.controlBase (placed (pagePlace n) (pageWords ((s.blocksGiven n k p).page n))) x)) := by
  have e : s.giveBlocks n k = ((s.blocksGiven n k p).postPage n).postStore := by unfold State.giveBlocks; rw [h]; rfl
  have h1 := (s.blocksGiven n k p).posts_postAll (pagePlace n) (pageWords ((s.blocksGiven n k p).page n))
  have h2 := ((s.blocksGiven n k p).postPage n).posts_post (statusPlace + 3)
    (statusStore ((s.blocksGiven n k p).postPage n).store)
  rw [e]
  have q := h1.trans h2
  refine q.congr fun x => ?_
  have a : ((s.blocksGiven n k p).postPage n).path.straps = s.path.straps := h1.alike.straps
  have b : ((s.blocksGiven n k p).postPage n).store = (s.blocksGiven n k p).store := h1.alike.store
  simp only [State.blocksGiven] at a b ⊢
  simp only [a, b]

/-! ## Lines (R64) -/

/-- A change of a line unit: the unit, and its state word when a field shown changes. -/
theorem State.posts_changeLine (s : State) (l : Line) (f : LineUnit → LineUnit) :
    (s.setLine l (f (s.line l))).PostsWords (s.changeLine l f)
      (if (f (s.line l)).shown = (s.line l).shown then fun _ => none
       else atWord (s.path.straps.controlBase + linePlace l) (statusLine (f (s.line l)))) := by
  unfold State.changeLine
  dsimp only
  split
  · exact (State.Handed.refl _).posts
  · have e : (s.setLine l (f (s.line l))).line l = f (s.line l) := by cases l <;> rfl
    have k := (s.setLine l (f (s.line l))).posts_post (linePlace l) (statusLine (f (s.line l)))
    unfold State.postLine
    rw [e]
    exact k

/-! ## Reports (R185) -/

/-- The report unit after a report has been written. -/
def State.reportTaken (s : State) : State :=
  { s with report := { s.report with
      sequence := nextSequence s.report.sequence, producer := s.report.producer + 1
      pulse := if s.report.mode = .pulse then s.after Config.attnPulse else s.report.pulse } }

/-- The words of a report written: the entry, the producer index and the status word. -/
def State.reportPosts (s : State) (r : Report) : List (Nat × Word) :=
  placed (reportPlace (s.report.producer.toNat % 64)) (reportWords s.report.sequence s.clock.uptime s.clock.calendar r) ++
    [(reportProducerPlace, pack [⟨(s.report.producer + 1).toNat, 0, 16⟩]), (statusPlace + 15, statusReport s.reportTaken.report)]

theorem State.writeReport_eq (s : State) (r : Report) (room : s.report.unconsumed < 64) :
    s.writeReport r = (s.reportPosts r).foldl (fun s p => s.post p.1 p.2) s.reportTaken := by
  have e : s.writeReport r =
      ((s.reportTaken.postAll (reportPlace (s.report.producer.toNat % 64))
        (reportWords s.report.sequence s.clock.uptime s.clock.calendar r)).post reportProducerPlace
          (pack [⟨(s.report.producer + 1).toNat, 0, 16⟩])).postReport := by
    unfold State.writeReport
    rw [if_pos (show s.report.unconsumed < Config.reportSlots from room)]
    rfl
  have k := ((s.reportTaken.posts_postAll (reportPlace (s.report.producer.toNat % 64))
    (reportWords s.report.sequence s.clock.uptime s.clock.calendar r)).trans
      (State.posts_post _ reportProducerPlace (pack [⟨(s.report.producer + 1).toNat, 0, 16⟩]))).alike.report
  rw [e, State.reportPosts, List.foldl_append]
  simp only [List.foldl_cons, List.foldl_nil, State.postReport, k]
  rfl

/-- A report that the ring has room for: the report unit, and its words. -/
theorem State.posts_writeReport (s : State) (r : Report) (room : s.report.unconsumed < 64) :
    s.reportTaken.PostsWords (s.writeReport r) (atPlaces s.path.straps.controlBase (s.reportPosts r)) := by
  rw [s.writeReport_eq r room]
  exact State.posts_foldPost _ s.reportTaken

end Sys2Proof.Machine
end

