-- ==== Sys2Proof/WellFormed.lean ====
section
/-! DEFINITION. The operands that the spec's ranges admit. A frame event carries a frame that the data
pump delimited and whose kind and length fit (R196); its field values may lie outside the ranges of
section 5.1, which R83 then treats, so only what the byte layout bounds is checked here. -/

namespace Sys2Proof

/-- A number that one byte of a frame can carry. -/
def byteRange (n : Nat) : Bool := decide (n ≤ 255)

/-- A station ID field carries at most 20 characters, none of value 0 (R196). -/
def idRange (id : List Byte) : Bool := decide (id.length ≤ 20) && id.all (· != 0)

/-- The operands of a command lie where its layout can carry them. -/
def Instr.wellFormed : Instr → Bool
  | .powerOnReset _ _ _ => true
  | .hostReset => true
  | .commandProducerWrite _ _ => true
  | .commandReadDiscarded => true
  | .unknownCommandKind kind _ => decide (kind.toNat = 0) || decide (28 < kind.toNat)
  | .openCapture _ _ _ _ => true
  | .closeCapture _ => true
  | .closeCaptureComplete => true
  | .abortCapture _ => true
  | .keepPage _ _ => true
  | .releasePage _ _ => true
  | .setReserve _ _ => true
  | .printPage _ _ => true
  | .endPrint _ => true
  | .setPrintMode _ _ => true
  | .setRenderWidth _ _ => true
  | .setLineMode _ _ _ => true
  | .setRings _ _ _ => true
  | .setLineOptions _ _ _ _ _ _ => true
  | .hangUp _ _ => true
  | .setStationId _ _ _ _ _ _ => true
  | .createJob _ _ _ _ _ _ => true
  | .addRecipient _ _ _ _ _ _ => true
  | .submitJob _ _ => true
  | .releaseJob _ _ => true
  | .cancelJob _ _ => true
  | .cancelRecipient _ _ _ => true
  | .deleteJob _ _ => true
  | .lockTariff _ => true
  | .setClock _ _ _ _ _ _ _ => true
  | .setRegions _ _ _ _ _ _ => true
  | .setAttn _ _ _ => true
  | .enableGuard _ _ => true
  | .clearGuardFlag _ => true
  | .hostWrite addr _ _ => decide (addr.toNat % 4 = 0)
  | .captureWindowWrite _ _ _ => true
  | .captureHoldExpiry => true
  | .lineTake => true
  | .captureAllocation => true
  | .receiveAllocation _ => true
  | .renderLineDecoded => true
  | .renderSlotFilled => true
  | .renderSlotRead _ _ => true
  | .renderHoldExpiry => true
  -- a burst is a presence of at least 200 ms (R66)
  | .ringBurst burst => decide (200 ≤ burst.presenceMs)
  | .ringGapTimeout _ => true
  | .answerToneEnd _ => true
  | .seize _ => true
  | .dialToneRecognised _ => true
  | .dialToneTimeout _ => true
  | .blindDialDelayEnd _ => true
  | .dtmfStrobeEnd _ => true
  | .dialBreakEnd _ => true
  | .symbolEnd _ => true
  | .interDigitMakeEnd _ => true
  | .ctoneBurstStart _ => true
  | .ctoneBurstEnd _ => true
  -- a taken presence is longer than 20 ms (R65), and FAULT_TONE ends an on period past 5 s (R73)
  | .toneCycleEnd _ onMs offMs => decide (20 < onMs) && decide (onMs ≤ 5000) && decide (20 ≤ offMs) && decide (offMs ≤ 5001)
  | .faultTone _ => true
  | .progressTimeout _ => true
  | .answerDetected _ => true
  | .meterPulse _ presenceMs => decide (20 ≤ presenceMs)
  | .carrierLost _ => true
  | .recoveryEnd _ => true
  | .lineCancel _ => true
  | .dispatchChoice => true
  | .identReceived _ id maxStep _ => idRange id && byteRange maxStep
  | .setupReceived _ id step => idRange id && byteRange step
  | .readyReceived _ => true
  | .retryReceived _ => true
  | .trainingBurstSent _ => true
  -- the one-bits are among the bits received (R90)
  | .trainingBurstReceived _ bits ones => decide (ones ≤ bits)
  | .pageHeadReceived _ number width lines bytes =>
    byteRange number && decide (width < 65536) && decide (lines < 65536) && decide (bytes < 4294967296)
  | .dataReceived _ block frame payload => byteRange block && byteRange frame && decide (payload.length < 65536)
  | .blockEndReceived _ block count => byteRange block && byteRange count
  | .blockDataDrained _ => true
  | .blockOkReceived _ block => byteRange block
  | .gapsReceived _ block frames => byteRange block && byteRange frames.length && frames.all byteRange
  | .storeFullReceived _ => true
  | .pageEndReceived _ _ => true
  | .pageDataDrained _ => true
  | .pageOkReceived _ => true
  | .clearReceived _ cause => byteRange cause
  | .frameRejected _ _ => true
  | .frameSent _ => true
  | .clearSent _ => true
  | .responseTimeout _ => true
  | .identTimeout _ => true
  | .identRepeat _ => true
  | .idleTimeout _ => true
  | .unitDue _ => true
  | .deskFieldWrite _ _ _ _ => true
  | .callLogConsumerWrite _ _ => true
  | .secondAdvance => true
  | .uptimeAdvance => true
  | .crystalStop _ => true
  | .crystalRun => true
  | .clockWord0Read => true
  | .clockWord3Read => true
  | .postingWrite => true
  | .arbiterGrant _ => true
  | .reportConsumerWrite _ _ => true
  | .attnPulseEnd => true
  | .guardKick _ _ => true
  | .guardExpiry => true

end Sys2Proof
end

