-- ==== Sys2Proof/Tests/Slice0.lean ====
section
/-! SUPPORT. Tests. First the checks of WellFormed, each refusing an ill-formed term and taking its
neighbour; then one-step tests whose expected values are those of the manual's tables and worked examples
(each names its source); then, for every statement with hypotheses, a `meets_…` theorem that shows concrete
states and operands that meet them, clause by clause, at the clauses' boundary values. -/

set_option Elab.async false

namespace Sys2Proof.Tests

open Sys2Proof.Machine

/-- The state after one row, which answers a next state in every state. -/
def after (i : Instr) (s : State) : State :=
  match exec i s with
  | .next t => t
  | _ => s

/-- The registers right after a power-on with 16 MiB and two lines, over a DRAM with nothing listed. -/
def bare : State := State.powerOnRegisters ⟨16, 2, false⟩

/-- The smallest store: 32 blocks from 0, the windows at 1 MiB and 2 MiB. -/
def base : State :=
  { bare with
    path := { bare.path with regions := some ⟨0, 65536, 0x100000, 0x200000⟩ }
    store := { bare.store with total := 32, free := List.range 32, reserve := 16 } }

/-- A COMPLETE page of 5 lines in one block, with no hold. -/
def page5 : Page :=
  { Page.filling .scan .store 0 1024 with complete := true, lineCount := 5, codeBytes := 100, chain := [31] }

/-- The state with record 1 and without its chain in the free chain. -/
def withPage (s : State) (p : Page) : State :=
  { s.setPage 1 (some p) with store := { (s.setPage 1 (some p)).store with free := s.store.free.filter (· ∉ p.chain) } }

/-- A recipient that waits, and a job that holds it. -/
def waiter (number : List Symbol) : Recipient :=
  { number := number, state := .waiting, attempts := 0, pagesConfirmed := 0, nextTry := 0, cancelMark := false,
    lastCause := none, lastLine := none, lastStep := none, lastCall := none }

def job1 (state : JobState) (pageList : List Nat) (recipients : List Recipient) : Job :=
  { state := state, desk := 4, priority := .normal, release := .now, maxAttempts := 3, interval := 2, submitSeq := some 7,
    pageList := pageList, recipients := recipients, done := 0, failed := 0, cancelled := 0 }

/-- An open call record of line A. -/
def call1 : CallRecord :=
  { sequence := 3, line := .A, desk := 4, job := 2, recipient := 0, number := [.digit 3], zone := 2,
    seizeTime := Calendar.powerOn, endTime := none, answerOffset := none, connectedTenths := 0, units := 0, pulses := 0,
    cost := 0, band := none, step := 0, cause := none, metered := false, timeUnset := false, saturated := false,
    overAllowance := false, meterPrice := 30, seizeAt := 0, answerAt := none, nextDue := none }

/-- Line A with a context of its own. -/
def lineA (s : State) (f : LineUnit → LineUnit) : State := s.setLine .A (f (s.line .A))

/-- The session of line A with a context of its own. -/
def sessA (s : State) (x : Session) : State := s.setSession .A x

/-- The capture context, with page 1 FILLING for line width 1024. -/
def capturing (s : State) (f : Coder → Coder) : State :=
  { s with coder := f { Coder.powerOn with
      state := .opened, page := 1, purpose := some .store, width := some 1024, reference := List.replicate 1024 false } }

/-- A receiver on line A. -/
def receiver (f : Session → Session) : State :=
  sessA base (f { Session.powerOn with role := .receiver, state := .waitHead, negotiated := 3 })

/-! ## WellFormed -/

/-- Kinds 1 to 28 have rows of their own (section 10.2). -/
theorem test_wf_kind :
    Instr.wellFormed (.unknownCommandKind 1 0) = false ∧ Instr.wellFormed (.unknownCommandKind 28 0) = false ∧
      Instr.wellFormed (.unknownCommandKind 0 0) = true ∧ Instr.wellFormed (.unknownCommandKind 29 0) = true := by decide

theorem test_wf_hostWrite :
    Instr.wellFormed (.hostWrite 2 15 0) = false ∧ Instr.wellFormed (.hostWrite 4 15 0) = true := by decide

/-- R66: a presence of less than 200 ms is no burst. -/
theorem test_wf_ringBurst :
    Instr.wellFormed (.ringBurst ⟨.A, 199⟩) = false ∧ Instr.wellFormed (.ringBurst ⟨.A, 200⟩) = true := by decide

/-- R65: a presence is longer than 20 ms; R73: FAULT_TONE ends an on period past 5 s. -/
theorem test_wf_toneCycle :
    Instr.wellFormed (.toneCycleEnd .A 20 500) = false ∧ Instr.wellFormed (.toneCycleEnd .A 5001 500) = false ∧
      Instr.wellFormed (.toneCycleEnd .A 500 19) = false ∧ Instr.wellFormed (.toneCycleEnd .A 500 5002) = false ∧
      Instr.wellFormed (.toneCycleEnd .A 21 20) = true ∧ Instr.wellFormed (.toneCycleEnd .A 5000 5001) = true := by decide

theorem test_wf_meterPulse :
    Instr.wellFormed (.meterPulse .A 19) = false ∧ Instr.wellFormed (.meterPulse .A 20) = true := by decide

theorem test_wf_ident :
    Instr.wellFormed (.identReceived .A [0] 4 true) = false ∧
      Instr.wellFormed (.identReceived .A (List.replicate 21 49) 4 true) = false ∧
      Instr.wellFormed (.identReceived .A [] 256 true) = false ∧
      Instr.wellFormed (.identReceived .A (List.replicate 20 49) 255 true) = true := by decide

theorem test_wf_setup :
    Instr.wellFormed (.setupReceived .A [0] 1) = false ∧ Instr.wellFormed (.setupReceived .A [] 256) = false ∧
      Instr.wellFormed (.setupReceived .A [49] 1) = true := by decide

theorem test_wf_burst :
    Instr.wellFormed (.trainingBurstReceived .A 5 6) = false ∧ Instr.wellFormed (.trainingBurstReceived .A 5 5) = true := by
  decide

theorem test_wf_pageHead :
    Instr.wellFormed (.pageHeadReceived .A 256 0 0 0) = false ∧ Instr.wellFormed (.pageHeadReceived .A 0 65536 0 0) = false ∧
      Instr.wellFormed (.pageHeadReceived .A 0 0 65536 0) = false ∧
      Instr.wellFormed (.pageHeadReceived .A 0 0 0 4294967296) = false ∧
      Instr.wellFormed (.pageHeadReceived .A 255 65535 65535 4294967295) = true := by decide

theorem test_wf_data :
    Instr.wellFormed (.dataReceived .A 256 0 []) = false ∧ Instr.wellFormed (.dataReceived .A 0 256 []) = false ∧
      Instr.wellFormed (.dataReceived .A 255 255 [1]) = true := by decide

theorem test_wf_data_payload : Instr.wellFormed (.dataReceived .A 0 0 (List.replicate 65536 0)) = false := by
  simp only [Instr.wellFormed, List.length_replicate]; decide

theorem test_wf_blockFrames :
    Instr.wellFormed (.blockEndReceived .A 256 0) = false ∧ Instr.wellFormed (.blockEndReceived .A 0 256) = false ∧
      Instr.wellFormed (.blockOkReceived .A 256) = false ∧ Instr.wellFormed (.gapsReceived .A 256 []) = false ∧
      Instr.wellFormed (.gapsReceived .A 0 [256]) = false ∧ Instr.wellFormed (.clearReceived .A 256) = false ∧
      Instr.wellFormed (.gapsReceived .A 255 [255]) = true := by decide

theorem test_wf_gaps_count : Instr.wellFormed (.gapsReceived .A 0 (List.replicate 256 0)) = false := by decide +kernel

/-! ## The codes of the manual -/

/-- The line black where `f` says, of 1024 pixels. -/
def pixels (f : Nat → Bool) : List Bool := (List.range 1024).map f

/-- Line 1 of Example 2 of chapter 2: black at pixels 100..139 and 600..899. -/
def twoBars : List Bool := pixels fun i => (100 ≤ i && i ≤ 139) || (600 ≤ i && i ≤ 899)

def white : List Bool := pixels fun _ => false

/-- Chapter 2, Example 2: BLANK is 2 bits, RUNS 73, REPEAT 2. -/
theorem test_tokens :
    (lineToken white white).length = 2 ∧ (lineToken white twoBars).length = 73 ∧ (lineToken twoBars twoBars).length = 2 := by
  decide +kernel

/-- Chapter 2, Example 2: ten code bytes, of which byte 0 is 20h, byte 1 is 32h and byte 9 is 8Fh. -/
theorem test_codeBytes :
    let bytes := (splitBytes (lineToken white white ++ lineToken white twoBars ++ lineToken twoBars twoBars ++ endToken)).1
    bytes.length = 10 ∧ bytes[0]? = some 0x20 ∧ bytes[1]? = some 0x32 ∧ bytes[9]? = some 0x8F := by decide +kernel

/-- Chapter 2, Example 3: 29 bits of RUNS, 24 bits of RUNS, 1027 bits of RAW. -/
theorem test_tokenChoice :
    (lineToken white (pixels fun i => decide (i < 10))).length = 29 ∧ (lineToken white (pixels fun _ => true)).length = 24 ∧
      (lineToken white (pixels fun i => decide (2 ≤ i % 4))).length = 1027 := by decide +kernel

/-- Chapter 3, Example 2: at width 1728 on a head of 2048, line pixel 0 lands in slot pixel 160 and pixel 1727 in 1887;
at width 2560, slot pixel 0 takes line pixel 256. -/
theorem test_placeLine :
    (placeLine 2048 (true :: List.replicate 1726 false ++ [true])).findIdxs (· == true) = [160, 1887] ∧
      (placeLine 2048 ((List.range 2560).map fun i => decide (i = 256))).findIdxs (· == true) = [0] ∧
      (placeLine 2048 (List.replicate 2560 true)).length = 2048 := by decide +kernel

/-- R83: the register starts at all ones and the ones' complement of the register is sent, high byte first; for READY,
of code 3, computed outside the model from the polynomial 1021h; a wrong check byte is a check error. -/
theorem test_frameCheck : (Frame.ready).wire = [0x03, 0x2E, 0x6C] ∧ Frame.parse [0x03, 0x2E, 0x6C] = some .ready ∧
    Frame.parse [0x03, 0x2E, 0x6D] = none := by decide +kernel

/-- Chapter 5, Example 1: 30 errors fail step 4, 22 fail step 3, 5 pass step 2. -/
theorem test_burstPasses :
    burstPasses 4 19200 30 = false ∧ burstPasses 3 14400 22 = false ∧ burstPasses 2 9600 5 = true := by decide +kernel

/-- R90: a burst passes with fewer errors than one in a thousand bits sent, and bits missing count as errors. -/
theorem test_burstBound :
    burstPasses 4 19200 19 = true ∧ burstPasses 4 19200 20 = false ∧ burstPasses 4 19181 0 = true ∧
      burstPasses 4 19180 0 = false := by decide +kernel

/-- Chapter 5, Example 2: a page of 20000 code bytes is 2 session blocks, of 64 and 15 frames. -/
theorem test_division :
    sessionBlocks 20000 = 2 ∧ blockFrames 20000 0 = 64 ∧ blockFrames 20000 1 = 15 ∧ frameLength 20000 1 14 = 32 := by
  decide +kernel

/-- R156: 2000-01-01 is a Saturday; 2024-02-29 was a Thursday, 2025-01-31 a Friday (chapter 8, Examples 1 and 2). -/
theorem test_weekday :
    weekdayOf 2000 1 1 = 5 ∧ weekdayOf 2024 2 29 = 3 ∧ weekdayOf 2025 1 31 = 4 := by decide +kernel

/-- 00_scope, section 4: the control area begins at 3F0000h, 7F0000h and FF0000h. -/
theorem test_controlBase :
    4 * (Straps.mk 4 2 false).controlBase = 0x3F0000 ∧ 4 * (Straps.mk 8 2 false).controlBase = 0x7F0000 ∧
      4 * (Straps.mk 16 2 false).controlBase = 0xFF0000 := by decide

/-- Chapter 9, Example 3, at 2.4, 3.0, 3.6, 4.8 and 5.4 µs. -/
theorem test_grants :
    let bus : Requests := { Requests.none with bus := some 0 }
    ({ bus with coder := some 0, poster := some 10 } : Requests).grant 24 = some .coder ∧
      ({ bus with poster := some 10, sessionA := some 25, sessionB := some 25 } : Requests).grant 30 = some .poster ∧
      ({ bus with sessionA := some 25, sessionB := some 25 } : Requests).grant 36 = some .bus ∧
      ({ bus with sessionA := some 25, sessionB := some 25 } : Requests).grant 48 = some .sessionA ∧
      ({ bus with sessionB := some 25 } : Requests).grant 54 = some .sessionB := by decide +kernel

/-- R180: three codes of the size pins are assigned, the fourth is taken as 4 MiB. -/
theorem test_straps :
    (Straps.latch 3 true false).dramMiB = 4 ∧ (Straps.latch 2 false true).linesFitted = 1 := by decide

/-! ## One step of a row, from the manual's examples -/

/-- The registers a command left: result and status word of the entry it took from slot 0. -/
def answerOf (s : State) : Word × Word := (s.settledAt (entryPlace 0 + 6), s.settledAt (entryPlace 0 + 7))

/-- Chapter 1, Example 1: 64 KiB of store are 32 blocks, all free, and the reserve is half of them. -/
theorem test_setRegions :
    let t := after (.setRegions 1 0 65536 0x100000 0x200000 64) bare
    t.store.free.length = 32 ∧ t.store.reserve = 16 ∧ answerOf t = (64, 0x00010001) := by decide +kernel

/-- R172: a store base that is no multiple of 4096 is BAD_ARGUMENT (code 5 of R195). -/
theorem test_setRegions_bad : (after (.setRegions 1 2048 65536 0x100000 0x200000 64) bare).path.regions = none := by
  decide +kernel

/-- Chapter 1, Example 1: SET_RESERVE 4. -/
theorem test_setReserve : (after (.setReserve 2 4) base).store.reserve = 4 ∧
    answerOf (after (.setReserve 2 4) base) = (4, 0x00020001) := by decide +kernel

/-- R6: at most half of the store total. -/
theorem test_setReserve_clamp : (after (.setReserve 2 255) base).store.reserve = 16 := by decide +kernel

/-- Chapter 1, Example 4: a page opened at width 1024 takes the lowest FREE record. -/
theorem test_openCapture :
    let t := after (.openCapture 7 1 0 1024) base
    t.coder.page = 1 ∧ answerOf t = (1, 0x00070001) ∧ t.coder.state = .opened := by decide +kernel

/-- Chapter 2, Example 4: the host completes line 8 in slot 0. -/
def slots4 : State :=
  capturing (base.setPage 1 (some (Page.filling .scan .store 0 1024))) fun c =>
    { c with
      nextLine := 1
      slots := #v[.free 8, .pending 1, .pending 2, .pending 3, .pending 4, .pending 5, .pending 6, .pending 7] }

theorem test_captureWindowWrite : (after (.captureWindowWrite 31 15 0) slots4).coder.slots[0] = .pending 8 := by decide +kernel

/-- Chapter 2, Example 4: the write of line 9 into slot 1 is held. -/
theorem test_captureWindowWrite_held :
    (after (.captureWindowWrite 80 15 5) slots4).path.held = some ⟨.write (0x40000 + 80) 15 5, 0⟩ := by decide +kernel

/-- Chapter 2, Example 4: the limit runs out: line 1 is lost, slot 1 is FREE with next line 9. -/
theorem test_captureHoldExpiry :
    let t := after .captureHoldExpiry { slots4 with path := { slots4.path with held := some ⟨.write (0x40000 + 80) 15 5, 0⟩ } }
    t.coder.lost = [1] ∧ t.coder.slots[1] = .free 9 ∧ (t.page 1).map (·.lostLines) = some 1 ∧ t.path.held = none ∧
      Memory.readWord t.mem (0x40000 + 80) = 5 := by decide +kernel

/-- Chapter 2, Example 2: line 1 costs 73 bits, of which the block granted takes 9 bytes with the 2 bits before it. -/
theorem test_lineTake :
    let s := capturing ((base.setPage 1 (some { Page.filling .scan .store 0 1024 with
        chain := [0], lineCount := 1 }))) fun c =>
      { c with nextLine := 1, lost := [1], codeBits := 2, tail := [false, false] }
    let t := after .lineTake s
    t.coder.nextLine = 2 ∧ t.coder.lost = [] ∧ t.coder.codeBits = 4 ∧ (t.page 1).map (·.lineCount) = some 2 := by decide +kernel

/-- Chapter 3, Example 1: a page printed into an empty queue in RUN starts at once; the result is its place, 1. -/
theorem test_printPage :
    let t := after (.printPage 1 1) (withPage base page5)
    t.render.queue = [1] ∧ t.render.rendering = true ∧ answerOf t = (1, 0x00010001) := by decide +kernel

/-- R48: 1000 is no render width. -/
theorem test_setRenderWidth : (after (.setRenderWidth 1 1000) base).render.width = 2048 ∧
    (after (.setRenderWidth 1 1728) base).render.width = 1728 := by decide +kernel

/-- Chapter 3, Example 3: the limit runs out at line 10 in slot 2: the slot is marked lost and the line counts. -/
theorem test_renderHoldExpiry :
    let s : State := { base with
      path := { base.path with held := some ⟨.read (0x80000 + 160) 15, 0⟩ }
      render := { base.render with
        rendering := true, page := 1, lineCount := 20, slots := base.render.slots.set 2 (.empty 10 false) } }
    let t := after .renderHoldExpiry s
    t.render.slots[2] = .empty 10 true ∧ t.render.underrunLines = 1 ∧ t.clock.now = 640 ∧ t.path.held = none := by
  decide +kernel

/-- Chapter 9, Example 1: the word of slot byte 255 ends line 40 at RW = 2048, and slot 0 awaits line 48. -/
theorem test_renderSlotRead :
    let s : State := { base with render := { base.render with
      rendering := true, page := 1, lineCount := 100, slots := base.render.slots.set 0 (.full 40) } }
    (after (.renderSlotRead 63 15) s).render.slots[0] = .empty 48 false ∧
      (after (.renderSlotRead 64 15) s).render.slots[0] = .full 40 := by decide +kernel

/-- Chapter 9, Example 1: bytes 2 and 3 of the word at 20FFFCh pass, bytes 0 and 1 keep their value. -/
theorem test_hostWrite :
    let s : State := { base with mem := Memory.writeWord [] (0x20FFFC / 4) 0x44332211 }
    Memory.readWord (after (.hostWrite 0x20FFFC 0b1100 0x88776655) s).mem (0x20FFFC / 4) = 0x88772211 := by decide +kernel

/-- R170: the words of the status record are the part's own, and a write is absorbed. -/
theorem test_hostWrite_absorbed : (after (.hostWrite 0xFF0000 15 7) base).mem = [] := by decide +kernel

/-- Chapter 4, Example 1: at 1.4 s the dial tone of a DTMF line starts the strobe of 9 for 90 ms. -/
def seized9 : State :=
  lineA { base with clock := { base.clock with now := 14000000 } } fun u =>
    { u with state := .seized, direction := some .outgoing, number := some [.digit 9, .wait, .digit 2],
             seizeSettings := some ⟨.tone, false, false⟩, timer := some 50000000 }

theorem test_dialToneRecognised :
    let u := (after (.dialToneRecognised .A) seized9).line .A
    u.state = .dialling ∧ u.dtmf = some (.digit 9) ∧ u.timer = some 14900000 := by decide +kernel

/-- Chapter 4, Example 2: digit 3 by pulse is a first break with two more to come; 0 is ten breaks. -/
theorem test_blindDialDelayEnd :
    let s (n : Fin 10) := lineA base fun u => { u with
      state := .seized, direction := some .outgoing, number := some [.digit n], seizeSettings := some ⟨.pulse, true, false⟩,
      timer := some 20000000 }
    ((after (.blindDialDelayEnd .A) (s 3)).line .A).phase = .brk 2 ∧ ((after (.blindDialDelayEnd .A) (s 3)).line .A).dialBreak ∧
      ((after (.blindDialDelayEnd .A) (s 0)).line .A).phase = .brk 9 := by decide +kernel

/-- Chapter 4, Example 2: the third busy cycle in a row ends the call. -/
theorem test_toneCycleEnd :
    let s (n : Nat) := lineA base fun u => { u with state := .progress, busyRun := n, direction := some .incoming }
    ((after (.toneCycleEnd .A 500 500) (s 2)).line .A).endCause = some .busy ∧
      ((after (.toneCycleEnd .A 500 500) (s 1)).line .A).state = .progress := by decide +kernel

/-- R66, R67: two rings to answer at power-on: the second burst answers. -/
theorem test_ringBurst :
    ((after (.ringBurst ⟨.A, 1000⟩) base).line .A).state = .ringing ∧
      ((after (.ringBurst ⟨.A, 1000⟩) (lineA base fun u => { u with state := .ringing, ringCount := 1 })).line .A).state =
        .answering := by
  decide +kernel

/-- R66: with a presence of 1 s the 8 s of the gap run out 8.8 s after the burst, which is counted at 200 ms. -/
theorem test_ringGap : ((after (.ringBurst ⟨.A, 1000⟩) base).line .A).timer = some 88000000 := by decide +kernel

/-- R79: HANG_UP of a ringing line rejects the call and answers 0. -/
theorem test_hangUp :
    let t := after (.hangUp 3 0) (lineA base fun u => { u with state := .ringing, ringCount := 1 })
    (t.line .A).state = .idle ∧ answerOf t = (0, 0x00030001) := by decide +kernel

/-- R63: rings are clamped to 1..9. -/
theorem test_setRings :
    ((after (.setRings 3 0 0) base).line .A).settings.rings = 1 ∧ ((after (.setRings 3 1 20) base).line .B).settings.rings = 9 := by
  decide +kernel

/-- Chapter 5, Example 3: PAGE_HEAD creates the page in the lowest FREE record and is answered READY. -/
theorem test_pageHeadReceived :
    let t := after (.pageHeadReceived .A 1 1728 2300 30000) (receiver id)
    (t.session .A).page = 1 ∧ (t.session .A).state = .receiving ∧ (t.session .A).sending = [.frame .ready 3] ∧
      (t.page 1).map (·.codeBytes) = some 30000 := by decide +kernel

/-- Chapter 5, Example 3: the first DATA frame of a session block of 16384 bytes asks for 8 blocks. -/
theorem test_dataReceived :
    let s := (receiver fun x => { x with state := .receiving, page := 1 }).setPage 1
      (some { Page.filling .received .received 0 1728 with codeBytes := 30000 })
    ((after (.dataReceived .A 0 0 (List.replicate 256 7)) s).session .A).allocAsked = some 8 ∧
      ((after (.dataReceived .A 0 0 (List.replicate 255 7)) s).session .A).allocAsked = none := by decide +kernel

/-- Chapter 5, Example 1: RETRY at step 4 sends SETUP at step 3. -/
theorem test_retryReceived :
    let s := sessA base { Session.powerOn with role := .sender, state := .burstSent, training := some 4 }
    ((after (.retryReceived .A) s).session .A).training = some 3 ∧
      ((after (.retryReceived .A) s).session .A).sending = [.frame (.setup [] 3) 1] := by decide +kernel

/-- R101: the third sending without an answer ends the session. -/
theorem test_responseTimeout :
    let s (n : Nat) := sessA base { Session.powerOn with
      role := .sender, state := .headSent, sendings := n, awaiting := some (.pageHead 1 1024 5 100), negotiated := 2,
      responseTimer := some 30000000 }
    ((after (.responseTimeout .A) (s 3)).session .A).endCause = some .noResponse ∧
      ((after (.responseTimeout .A) (s 2)).session .A).sendings = 3 := by decide +kernel

/-- R109: the characters before the first byte of 0. -/
theorem test_setStationId :
    (after (.setStationId 1 0x3231302B 0x00003433 0 0 0) base).stationId = [0x2B, 0x30, 0x31, 0x32, 0x33, 0x34] := by
  decide +kernel

/-- Chapter 6, Example 1: attempts are clamped to 9 and the interval to 1; the job takes the lowest free number. -/
theorem test_createJob :
    let t := after (.createJob 1 6 0 1 12 0) (base.setJob 1 (some (job1 .held [] [])))
    (t.job 2).map (·.maxAttempts) = some 9 ∧ (t.job 2).map (·.interval) = some 1 ∧
      answerOf t = (2, 0x00010001) := by decide +kernel

/-- R195: the earlier symbol stands in the high nibble of a byte, and the string ends at the first end code. -/
theorem test_addRecipient :
    let t := after (.addRecipient 2 1 0x0000F321 0 0 0) (base.setJob 1 (some (job1 .assembling [] [])))
    (t.recipient 1 0).map (·.number) = some [.digit 2, .digit 1] ∧ answerOf t = (0, 0x00020001) := by decide +kernel

/-- R116: a job with no page is EMPTY and stays ASSEMBLING. -/
theorem test_submitJob :
    ((after (.submitJob 3 1) (base.setJob 1 (some (job1 .assembling [] [waiter [.digit 1]])))).job 1).map (·.state) =
      some .assembling := by decide +kernel

/-- Chapter 6, Example 3: a NORMAL job's recipient fails with DESK_LIMIT when the desk has spent its allowance. -/
theorem test_dispatchChoice :
    let s := (base.setJob 1 (some { job1 .ready [1] [waiter [.digit 5]] with desk := 9 })).setDesk 9
      { Desk.powerOn with allowance := 50000, spent := 50200 }
    ((after .dispatchChoice s).recipient 1 0).bind (·.lastCause) = some .deskLimit := by decide +kernel

/-- R126: the seize taken: SEIZED, ON_LINE, one attempt. -/
theorem test_seize :
    let s := base.setJob 1 (some (job1 .ready [1] [waiter [.digit 5]]))
    let t := after (.seize .A) { s with dispatch := { s.dispatch with asked := some (.A, 1, 0) } }
    (t.line .A).state = .seized ∧ (t.recipient 1 0).map (·.attempts) = some 1 ∧ (t.call .A).map (·.sequence) = some 1 := by
  decide +kernel

/-- Chapter 7, Example 4: a consumer index beyond the producer index is taken as the producer index. -/
theorem test_callLogConsumerWrite :
    let s : State := { base with charge := { base.charge with logProducer := 201, logConsumer := 90 } }
    (after (.callLogConsumerWrite 15 300) s).charge.logConsumer = 201 := by decide +kernel

/-- Chapter 7, Example 4: within the records produced it is taken as written. -/
theorem test_callLogConsumerWrite_within :
    let s : State := { base with charge := { base.charge with logProducer := 201, logConsumer := 74 } }
    (after (.callLogConsumerWrite 15 90) s).charge.logConsumer = 90 := by decide +kernel

/-- Chapter 7, Example 3: a metered call is charged its meter price at each pulse. -/
theorem test_meterPulse :
    let s := (lineA base fun u => { u with state := .connected, direction := some .outgoing }).setCall .A
      (some { call1 with metered := true, meterPrice := 90 })
    ((after (.meterPulse .A 80) s).call .A).map (·.cost) = some 90 ∧
      ((after (.meterPulse .A 201) s).call .A).map (·.pulses) = some 0 := by decide +kernel

/-- R151: the result of LOCK_TARIFF is 0 when it sets the lock. -/
theorem test_lockTariff :
    (after (.lockTariff 1) base).charge.locked = true ∧ answerOf (after (.lockTariff 1) base) = (0, 0x00010001) := by
  decide +kernel

/-- Chapter 8, Example 2: SET_CLOCK 2024-02-29 06:29:58 answers weekday 3. -/
theorem test_setClock :
    let t := after (.setClock 4 2024 2 29 6 29 58) base
    answerOf t = (3, 0x00040001) ∧ t.clock.unset = false ∧ t.clock.calendar = ⟨2024, 2, 29, 3, 6, 29, 58⟩ := by decide +kernel

/-- R160: 2023 has no 29 February. -/
theorem test_setClock_bad : (after (.setClock 4 2023 2 29 6 29 58) base).clock.unset = true := by decide +kernel

/-- Chapter 8, Example 1: the second after 2025-01-31 23:59:59. -/
theorem test_secondAdvance :
    let s : State := { base with clock := { base.clock with calendar := ⟨2025, 1, 31, 4, 23, 59, 59⟩, unset := false } }
    (after .secondAdvance s).clock.calendar = ⟨2025, 2, 1, 5, 0, 0, 0⟩ := by decide +kernel

/-- Chapter 8, Example 1: word 3 returns uptime 86399 with the moved field 1 when the postings of an advance fell between. -/
theorem test_clockWord3Read :
    let s : State := { base with
      mem := Memory.writeWord [] (base.path.straps.controlBase + clockPlace + 3) 86399
      clock := { base.clock with readOpen := true, moved := true } }
    (after .clockWord3Read s).path.readData = 0x8001517F ∧ (after .clockWord3Read s).clock.readOpen = false := by decide +kernel

/-- Chapter 10, Example 1: a producer index 26 ahead of the consumer index is taken as 16 ahead. -/
theorem test_commandProducerWrite :
    let s : State := { base with command := { base.command with producer := 30, consumer := 30 } }
    (after (.commandProducerWrite 15 33) s).command.producer = 33 ∧
      (after (.commandProducerWrite 15 60) s).command.producer = 46 := by decide +kernel

/-- Chapter 10, Example 2: with 64 entries unconsumed a report takes its sequence number and is dropped. -/
theorem test_reportOverflow :
    let s : State := { base with report := { base.report with producer := 264, consumer := 200, sequence := 881 } }
    (s.handReport { kind := .pagePrinted }).report.overflow = true ∧
      (s.handReport { kind := .pagePrinted }).report.producer = 264 ∧
      (s.handReport { kind := .pagePrinted }).report.sequence = 882 := by decide +kernel

/-- Chapter 10, Example 2: the consumer index 250 makes room and clears OVERFLOW. -/
theorem test_reportConsumerWrite :
    let s : State := { base with report := { base.report with producer := 264, consumer := 200, overflow := true } }
    (after (.reportConsumerWrite 15 250) s).report.consumer = 250 ∧
      (after (.reportConsumerWrite 15 250) s).report.overflow = false := by decide +kernel

/-- Chapter 10, Example 3: a kick of the expected value takes the other value next; one of a wrong value does not count. -/
theorem test_guardKick :
    let s : State := { base with guard := { base.guard with enable := true, period := some 5 } }
    (after (.guardKick 15 1) s).guard.expected = 2 ∧ (after (.guardKick 15 2) s).guard.expected = 1 := by decide +kernel

/-- R188: a host reset leaves RESTARTED as entry 0, sequence 1. -/
theorem test_hostReset :
    let t := after .hostReset { base with report := { base.report with producer := 70, consumer := 66, sequence := 900 } }
    t.report.producer = 1 ∧ t.report.sequence = 2 ∧ t.settledAt (reportPlace 0) = 1 := by decide +kernel

/-! ## Witnesses: the step, the resets, the invariants, the codes -/

theorem meets_StepRunsTheFrontCommand :
    ({ base with pending := [.lineTake, .hostReset] } : State).pending = .lineTake :: [.hostReset] := rfl

theorem meets_EmptyQueueIdles : State.reset.pending = [] := rfl

/-- A step that writes a word of DRAM: the poster's item stands at the port. -/
def oneItem : State :=
  { base with path := { base.path with postings := [.write 5 7], headHanded := true }, pending := [.postingWrite] }

theorem meets_MemoryStaysCanonical :
    Memory.wf oneItem.mem = true ∧ ∃ t, step oneItem = .next t ∧ t.mem ≠ oneItem.mem :=
  ⟨rfl, _, rfl, by decide +kernel⟩

theorem meets_BlocksConserved :
    (withPage base page5).store.conserves ∧ 0 < (withPage base page5).store.free.length ∧
      ∃ t, step { withPage base page5 with pending := [.lineTake] } = .next t := by
  refine ⟨?_, ?_, _, rfl⟩
  · unfold Store.conserves; decide +kernel
  · decide +kernel

/-- The print queue with 64 pages, the posting list with 128 items. -/
def fullLists : State :=
  { base with
    render := { base.render with queue := List.range 64 }
    path := { base.path with
      postings := (List.range 128).map fun i => .write i 1, waiting := [.write 200 1], headHanded := true }
    pending := [.postingWrite] }

theorem meets_bounds :
    fullLists.render.queue.length = 64 ∧ fullLists.path.postings.length = 128 ∧ fullLists.path.waiting ≠ [] ∧
      1 ≤ fullLists.path.straps.dramMiB ∧ ∃ t, step fullLists = .next t ∧ t.path.postings.length = 128 ∧ t.path.waiting = [] := by
  refine ⟨?_, ?_, ?_, ?_, _, rfl, ?_⟩ <;> decide +kernel

theorem meets_RegionsStaySound : base.regionsSound ∧ base.path.regions ≠ none := by
  refine ⟨fun r h => ?_, by decide +kernel⟩
  have : r = ⟨0, 65536, 0x100000, 0x200000⟩ := (Option.some.inj h).symm
  subst this; unfold regionTests; decide +kernel

theorem meets_WhatOnlyResetsChange :
    (∃ t, exec .uptimeAdvance base = .next t ∧ t.clock.uptime = 1) ∧
      ∃ t, exec (.powerOnReset 0 false true) base = .next t ∧ t.path.straps ≠ base.path.straps := by
  refine ⟨⟨_, rfl, ?_⟩, _, rfl, ?_⟩ <;> decide +kernel

theorem meets_FrameBytesRoundTrip :
    (Frame.ident (List.replicate 20 49) 255 true).carried ∧ (Frame.setup [] 0).carried ∧
      (Frame.pageHead 255 65535 65535 4294967295).carried ∧ (Frame.data 255 255 [0, 255]).carried ∧
      (Frame.blockEnd 255 255).carried ∧ (Frame.blockOk 255).carried ∧ (Frame.gaps 255 [0, 255]).carried ∧
      (Frame.clear 255).carried := by
  unfold Frame.carried; decide +kernel

theorem meets_BandCodeRoundTrip :
    0 < 2560 ∧ (List.replicate 2560 false).length = 2560 ∧ (List.replicate 2560 true).length = 2560 ∧
      0 < 1 ∧ [true].length = 1 := by decide +kernel

theorem meets_CodeBitsPacked :
    let bits := [true, false, true, false, true, false, true, true, true]
    bits[7]? = some true ∧ 7 / 8 < bits.length / 8 ∧ ¬ 8 / 8 < bits.length / 8 := by decide

/-! ## Witnesses: postings, commands, reports -/

theorem meets_Postings :
    Memory.wf oneItem.mem = true ∧ oneItem.command.fetched = none ∧ oneItem.path.stalled = [] ∧
      (∀ w n a rest, oneItem.path.postings ≠ .read w n a :: rest) ∧ oneItem.path.headHanded = true ∧
      oneItem.path.postings = .write 5 7 :: [] ∧ base.path.headHanded = false ∧ base.path.postings = [] := by
  refine ⟨rfl, rfl, rfl, fun w n a rest h => ?_, rfl, rfl, rfl, rfl⟩
  cases h

/-- A posting of word 7 of the control area: none of it stands in the list; one does, not handed, behind one at the port. -/
theorem meets_PostingWaitsForRoom :
    let w := base.path.straps.controlBase + 7
    let s : State := { base with path := { base.path with postings := [.write w 1, .write w 2], headHanded := true } }
    base.path.postings.length < 128 ∧ base.path.waiting = [] ∧ (∀ u, .write w u ∉ base.path.postings.drop 0 ++ base.path.waiting) ∧
      fullLists.path.postings.length = 128 ∧ .write w 2 ∈ s.path.postings.drop 1 ++ s.path.waiting ∧
      (s.post 7 3).path.postings = [.write w 1, .write w 3] := by
  refine ⟨by decide +kernel, rfl, fun u h => List.not_mem_nil h, ?_⟩
  decide +kernel

theorem meets_PostingWaitsForRoom_full :
    ∀ u, PostItem.write (base.path.straps.controlBase + 7) u ∉ fullLists.path.postings.drop 1 ++ fullLists.path.waiting := by
  intro u h
  have hw : ∀ i ∈ fullLists.path.postings.drop 1 ++ fullLists.path.waiting, i.isFor (base.path.straps.controlBase + 7) = false := by
    decide +kernel
  have := hw _ h
  simp [PostItem.isFor] at this

/-- R176: a list of 128 postings, and a posting row that finds no room in it: the head item is handed first, and the row's
register is the new one. -/
def fullList : State := { base with path := { base.path with postings := (List.range 128).map fun i => .write i 1 } }

theorem meets_EventWaitsForRoom :
    asksReads .uptimeAdvance = false ∧ Memory.wf fullList.mem = true ∧ fullList.busQuiet ∧ fullList.quietReads ∧
      fullList.listInOrder ∧ ¬ fullList.fits .uptimeAdvance ∧ base.fits .uptimeAdvance ∧ base.quietReads ∧
      (let t := after .uptimeAdvance fullList
       t.clock.uptime = 1 ∧ t.path.postings.length = 128 ∧ t.path.waiting = [] ∧ Memory.readWord t.mem 0 = 1) := by
  refine ⟨rfl, rfl, ⟨rfl, rfl⟩, ⟨rfl, fun item h => ?_⟩, ⟨?_, fun h => absurd rfl h⟩, ?_, State.findsRoom_of_items rfl _,
    ⟨rfl, fun item h => by cases h⟩, ?_⟩
  · rw [show fullList.path.items = fullList.path.postings from List.append_nil _] at h
    obtain ⟨i, _, rfl⟩ := List.mem_map.1 h
    exact ⟨i, 1, rfl⟩
  · decide +kernel
  · unfold State.fits; decide +kernel
  · decide +kernel

/-- The read of an entry that begins with `w0`, at the port and once made. -/
def entryAtHead (w0 : Word) : State :=
  { base with
    mem := Memory.writeWord [] 8 w0
    path := { base.path with postings := [.read 8 8 .command], headHanded := true } }

def entryRead (w0 : Word) : State :=
  { entryAtHead w0 with
    path := { (entryAtHead w0).path with postings := [], headHanded := false }
    command := { (entryAtHead w0).command with fetched := some [w0, 0, 0, 0, 0, 0, 0, 0] } }

theorem meets_PostingWriteTakesEntry :
    (entryRead 5).path.stalled = [] ∧
      (entryRead 5).command.fetched = some [5, 0, 0, 0, 0, 0, 0, 0] ∧ rowOfEntry 0x00070005 9 0 0 0 0 = .releasePage 7 9 ∧
      rowOfEntry 0x00070100 9 0 0 0 0 = .unknownCommandKind 0 7 ∧ rowOfEntry 0x0007001D 9 0 0 0 0 = .unknownCommandKind 29 7 ∧
      (entryAtHead 5).path.stalled = [] ∧ (entryAtHead 5).path.headHanded = true ∧
      (entryAtHead 5).path.postings = .read 8 8 .command :: [] ∧ (entryAtHead 5).command.fetched = none := by
  decide +kernel

/-- Section 11.4: kind 4 with tag 7 is KEEP_PAGE, and 24 SET_CLOCK, whose fifth argument holds minute and second. -/
theorem test_entryKinds :
    (after .postingWrite { withPage base page5 with
        command := { base.command with producer := 1, readAsked := true, fetched := some [0x00070004, 1, 0, 0, 0, 0, 0, 0] } }).page 1 =
        some { page5 with keepHold := true } ∧
      (after .postingWrite { base with command := { base.command with
        producer := 1, readAsked := true, fetched := some [0x00070018, 2024, 2, 29, 6, 0x3A1D, 0, 0] } }).clock.calendar =
        ⟨2024, 2, 29, 3, 6, 29, 58⟩ := by decide +kernel

/-- An entry in progress; an entry whose read has been withdrawn. -/
def inProgress : State := { base with command := { base.command with inProgress := some ⟨2, 9⟩ } }

def withdrawn : State := { base with command := { base.command with readAsked := true, withdrawn := true } }

/-- The same with the producer index moved on again. -/
def producedAgain : State := { withdrawn with command := { withdrawn.command with producer := 1 } }

theorem meets_EntryNotTaken :
    isEntry (.closeCapture 1) = true ∧ isEntry (.unknownCommandKind 29 1) = true ∧ Memory.wf inProgress.mem = true ∧
      inProgress.path.stalled = [] ∧ inProgress.command.inProgress ≠ none ∧ withdrawn.command.inProgress = none ∧
      withdrawn.command.withdrawn = true ∧ Memory.wf withdrawn.mem = true ∧ withdrawn.path.stalled = [] ∧
      producedAgain.command.producer ≠ producedAgain.command.consumer := by decide +kernel

/-- R182: the data of a withdrawn read are discarded, and the unit asks for the entry that has been produced again. -/
theorem test_discardedAsksAgain :
    (after .commandReadDiscarded producedAgain).command.readAsked = true ∧
      (after .commandReadDiscarded withdrawn).command.readAsked = false := by decide +kernel

theorem meets_UnknownKindRefused :
    base.takes ∧ ((0 : Byte).toNat = 0 ∨ 28 < (0 : Byte).toNat) ∧ ((29 : Byte).toNat = 0 ∨ 28 < (29 : Byte).toNat) := by
  unfold State.takes; decide +kernel

/-- Producer and consumer index 30: the distances 0, 1, 16 and 17. -/
theorem meets_CommandProducerWrite :
    let s : State := { base with command := { base.command with producer := 30, consumer := 30 } }
    let distance (data : Word) : Nat :=
      ((Memory.readWord (Memory.writeMasked s.mem (s.path.straps.controlBase + commandProducerPlace) 15 data)
        (s.path.straps.controlBase + commandProducerPlace)).extractLsb' 0 16 - s.command.consumer).toNat
    Memory.wf s.mem = true ∧ s.path.held = none ∧ s.portFree ∧ (15 : BitVec 4) ≠ 0 ∧ 0 < s.path.straps.dramMiB ∧
      distance 30 = 0 ∧ distance 31 = 1 ∧ distance 46 = 16 ∧ distance 47 = 17 ∧ s.command.inProgress = none ∧
      inProgress.command.inProgress.isSome = true ∧ withdrawn.command.readAsked = true := by
  unfold State.portFree State.portFreeAt; decide +kernel

theorem meets_CommandReadDiscarded :
    Memory.wf withdrawn.mem = true ∧ withdrawn.command.readAsked = true ∧
      withdrawn.command.withdrawn = true ∧ base.command.readAsked = false ∧
      producedAgain.command.producer ≠ producedAgain.command.consumer := by
  decide +kernel

theorem meets_ReportHanded :
    Memory.wf base.mem = true ∧ base.report.mask.getLsbD ReportKind.pagePrinted.cls = true ∧ base.report.unconsumed < 64 ∧
      (let r : ReportUnit := { base.report with producer := 64 }
       r.unconsumed = 64) := by decide +kernel

/-! ## Witnesses: chapter 1 -/

/-- A COMPLETE page with the holds given, in record 1. -/
def held1 (send print keep : Bool) : State :=
  withPage base { page5 with sendHold := send, printHold := print, keepHold := keep }

theorem meets_PageHolds :
    base.takes ∧ base.completePage 1 = none ∧ base.completePage 256 = none ∧ (held1 true false false).takes ∧
      ((held1 true false false).completePage 1).map (·.keepHold) = some false ∧
      ((held1 false false true).completePage 1).map (fun p => (p.keepHold, p.sendHold || p.printHold)) = some (true, false) ∧
      ((held1 false true true).completePage 1).map (fun p => (p.keepHold, p.sendHold || p.printHold)) = some (true, true) := by
  unfold State.takes; decide +kernel

/-- The power-on reserve 32 is above half of a store of 32; SET_RESERVE changes it, and the other rows leave it. -/
theorem meets_Reserve :
    base.takes ∧ min (255 : Word).toNat (min 255 (base.store.total / 2)) ≠ 255 ∧
      min (0 : Word).toNat (min 255 (base.store.total / 2)) ≠ base.store.reserve ∧
      (∃ t, exec .lineTake base = .next t) ∧ ∃ t, exec (.setReserve 1 3) base = .next t ∧ t.store.reserve = 3 := by
  refine ⟨?_, ?_, ?_, ⟨_, rfl⟩, _, rfl, ?_⟩
  · unfold State.takes; decide +kernel
  all_goals decide +kernel

/-- R172: the store from 0, the windows just after it; each of the four tests failed by one step; the limits of the
length. -/
theorem meets_SetRegions_tests :
    regionTests 0xFF0000 0 65536 65536 69632 ∧ regionTests 0xFF0000 0 8388608 8388608 0xFEF000 ∧
      ¬ regionTests 0xFF0000 2048 65536 0x100000 0x200000 ∧ ¬ regionTests 0xFF0000 0 65537 0x100000 0x200000 ∧
      ¬ regionTests 0xFF0000 0 63488 0x100000 0x200000 ∧ ¬ regionTests 0xFF0000 0 8390656 0x900000 0xA00000 ∧
      ¬ regionTests 0xFF0000 0 65536 0x100000 0xFF0000 ∧ ¬ regionTests 0xFF0000 0 65536 61440 0x200000 := by
  refine ⟨?_, ?_, ?_, ?_, ?_, ?_, ?_, ?_⟩ <;> unfold regionTests <;> decide +kernel

theorem bare_page (n : Nat) : bare.page n = none := by
  unfold State.page PageTable.get
  split
  · rfl
  · show ((Vector.replicate 255 (none : Option Page))[n - 1]?).join = none
    rw [Vector.getElem?_replicate]
    split <;> rfl

theorem meets_SetRegions :
    bare.takes ∧ (∀ n, bare.page n = none) ∧ bare.coder.state = .idle ∧ bare.render.rendering = false ∧
      (held1 false false true).takes ∧ (∃ n, (held1 false false true).page n ≠ none) ∧
      (capturing base id).coder.state ≠ .idle := by
  refine ⟨?_, bare_page, rfl, rfl, ?_, ⟨1, ?_⟩, ?_⟩
  · unfold State.takes; decide +kernel
  · unfold State.takes; decide +kernel
  all_goals decide +kernel

/-- A FILLING page in record 1 with one block, its code at the block's end, and a token that needs a block. -/
def asks (free reserve : Nat) : State :=
  let s := capturing (base.setPage 1 (some { Page.filling .scan .store 0 1024 with chain := [31], codeBytes := 2048 })) fun c =>
    { c with codeBits := 16384, asked := some ⟨[false, false], some (List.replicate 1024 false)⟩ }
  { s with store := { s.store with free := List.range free, reserve := reserve } }

/-- A closing coder whose last line waits for a block, END after it. -/
def endWaits (free : Nat) : State :=
  let s := asks free 16
  { s with coder := { s.coder with closing := true, asked := some ⟨[true, true, true, false, false, false, false, false], none⟩ } }

theorem meets_CaptureAllocationGranted :
    Memory.wf (asks 17 16).mem = true ∧ (asks 17 16).path.stalled = [] ∧ (asks 17 16).coder.asked ≠ none ∧
      ((asks 17 16).page 1).map (·.chain) = some [31] ∧ (asks 17 16).coder.page = 1 ∧
      (asks 17 16).store.reserve < (asks 17 16).store.free.length ∧ (asks 17 16).coder.closing = false ∧
      (endWaits 17).coder.closing = true ∧ (endWaits 17).path.held = none ∧ (endWaits 17).coder.asked ≠ none := by
  decide +kernel

/-- R39: END's 3 bits in the block granted, and zero bits to the end of its byte. -/
theorem test_captureAllocation :
    let t := after .captureAllocation (endWaits 17)
    t.coder.endCoded = true ∧ t.coder.writes = [(0, 0xE0)] ∧ (t.page 1).map (·.codeBytes) = some 2049 := by decide +kernel

/-- The same while CLOSE_CAPTURE is in progress. -/
def closesFull : State := { endWaits 16 with command := { (asks 16 16).command with inProgress := some ⟨2, 9⟩ } }

theorem meets_CaptureAllocationRefused :
    Memory.wf (asks 16 16).mem = true ∧ (asks 16 16).path.held = none ∧ (asks 16 16).path.stalled = [] ∧
      (asks 16 16).coder.asked ≠ none ∧ (asks 16 16).coder.closing = false ∧ (asks 16 16).page 1 ≠ none ∧
      (asks 16 16).store.free.length ≤ (asks 16 16).store.reserve ∧ closesFull.coder.closing = true ∧
      closesFull.command.inProgress = some ⟨2, 9⟩ ∧ closesFull.page 1 ≠ none ∧
      closesFull.store.free.length ≤ closesFull.store.reserve := by decide +kernel

/-- A receiver that waits for 8 blocks with the DATA frames and the BLOCK_END counts given. -/
def waitsFor (free : Nat) (data : List (Nat × List Byte)) (ends : List Nat) : State :=
  let s := (receiver fun x => { x with
      state := .receiving, page := 1, allocAsked := some 8, waitingData := data, waitingEnds := ends }).setPage 1
    (some { Page.filling .received .received 0 1728 with codeBytes := 30000 })
  { s with store := { s.store with free := List.range free } }

/-- Granted at 8 free blocks and refused at 7; one BLOCK_END with a wrong count, two with frames missing, one with
none missing. -/
theorem meets_ReceiveAllocation :
    let x (s : State) := s.session .A
    let whole := (List.range 64).map fun m => (m, [(7 : Byte)])
    Memory.wf (waitsFor 8 [(63, [7])] []).mem = true ∧ (x (waitsFor 8 [(63, [7])] [])).allocAsked = some 8 ∧
      (waitsFor 8 [(63, [7])] []).page 1 ≠ none ∧ 8 ≤ (waitsFor 8 [(63, [7])] []).store.free.length ∧
      (x (waitsFor 8 [(63, [7])] [])).waitingEnds = [] ∧ (∀ d ∈ [(63, [(7 : Byte)])], d.1 < 64) ∧ (∃ d ∈ [(63, [(7 : Byte)])], d.2 ≠ []) ∧
      (x (waitsFor 8 [(63, [7])] [64])).role = .receiver ∧ (x (waitsFor 8 [(63, [7])] [64])).state = .receiving ∧
      (x (waitsFor 8 [(63, [7])] [64])).storeFailed = false ∧ blockFrames 30000 0 = 64 ∧ (∃ count ∈ [64, 63], count ≠ 64) ∧
      (∀ count ∈ [64, 64], count = 64) ∧ whole.all (fun d => decide (d.1 < 64)) ∧
      ((List.range 64).filter fun m => !((x (waitsFor 8 whole [64])).frameMap.getD m false || whole.any fun d => d.1 == m)) = [] ∧
      ¬ 8 ≤ (waitsFor 7 [(63, [7])] [64]).store.free.length ∧ (x (waitsFor 7 [(63, [7])] [64])).waitingEnds ≠ [] := by
  decide +kernel

/-- R95, R97: two BLOCK_ENDs that waited for the allocation are each answered: a wrong count clears, a right one with
frames missing is answered GAPS. -/
theorem test_waitingEnds :
    ((after (.receiveAllocation .A) (waitsFor 8 [(63, [7])] [63, 64])).session .A).endCause = some .protocol ∧
      ((after (.receiveAllocation .A) (waitsFor 8 [(63, [7])] [64, 64])).session .A).sending.length = 2 := by decide +kernel

/-! ## Witnesses: chapter 9 -/

/-- `base` meets the premises; the areas of its map in bytes: store 0 to FFFFh, capture window from 100000h, render window
from 200000h, control area from FF0000h; first and last word of each clause. -/
theorem meets_HostWriteByArea :
    let d := base.path.straps.dramMiB * 1048576
    4 ∣ (0xFF0100#24).toNat ∧ (1 : BitVec 4) ≠ 0 ∧ 1 ≤ base.path.straps.dramMiB ∧ base.path.held = none ∧ d = 0x1000000 ∧
      bare.path.regions = none ∧
      [0, 0xFFFC, 0x10000, 0xFFFFC, 0x100000, 0x1009FC, 0x100A00, 0x100FFC, 0x101000, 0x1FFFFC, 0x200000, 0x200FFC, 0x201000,
          0xFEFFFC].map (fun a => base.path.areaOf (a / 4)) =
        [.store, .store, .plain, .plain, .captureSlot 0 0, .captureSlot 7 79, .captureRest, .captureRest, .plain, .plain,
          .renderSlot 0 0, .renderRest, .plain, .plain] ∧
      base.path.areaOf (0xFF0000 / 4) = .control 0 ∧ base.path.areaOf (0xFFFFFC / 4) = .control 16383 := by decide +kernel

/-- The port in `base` but for what stands there: an item of the poster, or an engine that has waited since `since`. -/
def portAt (s : State) (headHanded : Bool) (since now : Nat) : State :=
  { s with
    path := { s.path with
      headHanded := headHanded, postings := if headHanded then [.write 5 7] else [],
      requests := { Requests.none with coder := some since } }
    clock := { s.clock with now := now } }

/-- The port free, with a coder that has waited 1.9 µs; busy by 2 µs of waiting, and by the poster's item; a word held, and
one at the port. -/
theorem meets_HostWriteByArea_port :
    let held : State := { base with path := { base.path with held := some ⟨.read 0x80000 15, 0⟩ } }
    let waits : State := { base with path := { base.path with atPort := some (.write 0x40000 15 5) } }
    (portAt base false 0 19).portFree ∧ (portAt base false 0 20).portBusy ∧ (portAt base true 0 0).portBusy ∧
      base.path.held = none ∧ base.path.atPort = none ∧ held.path.held ≠ none ∧ waits.path.atPort ≠ none := by
  unfold State.portFree State.portFreeAt State.portBusy State.portBusyAt; decide +kernel

/-- A word of each clause at a busy port: the capture window's slot 1 is FREE; the render window past the width. -/
theorem meets_BusWaits :
    let s := portAt base true 0 0
    (15 : BitVec 4) ≠ 0 ∧ s.path.held = none ∧ s.path.atPort = none ∧ s.portBusy ∧ 1 ≤ s.path.straps.dramMiB ∧
      s.charge.locked = false ∧ s.path.regions = some ⟨0, 65536, 0x100000, 0x200000⟩ ∧
      s.coder.slotIs ((80 : BitVec 10).toNat / 80) (.free 1) ∧ 640 ≤ (640 : BitVec 10).toNat ∧
      s.render.width / 8 < 4 * ((64 : BitVec 10).toNat % 80 + 1) ∧ s.render.slotIs 0 .noLine := by
  unfold State.portBusy State.portBusyAt Coder.slotIs Render.slotIs; decide +kernel

/-- The last word of each clause of the control area, and the word after it: no word lies in two clauses. -/
theorem meets_HostWriteByArea_control :
    [0x0100, 0x02FC, 0x7900, 0x79FC].all (fun o => controlKind (o / 4) == .hostWritable) ∧
      [0x0000, 0x008C, 0x00A0, 0x00FC, 0x0300, 0x6FFC, 0x7008, 0x73FC, 0x78A8, 0x78FC, 0x7A00, 0xFFFC].all
        (fun o => controlKind (o / 4) == .partOwned || controlKind (o / 4) == .clockWord0 || controlKind (o / 4) == .clockWord3) ∧
      controlKind (0x7400 / 4) = .tariff ∧ controlKind (0x78A4 / 4) = .tariff ∧
      controlKind (0x7000 / 4) = .deskField 0 false ∧ controlKind (0x73E4 / 4) = .deskField 31 true := by decide +kernel

theorem meets_HostWriteObserved :
    let c := base.path.straps.controlBase
    (0xFF0094#24).toNat / 4 = c + commandProducerPlace ∧ (0xFF0098#24).toNat / 4 = c + reportConsumerPlace ∧
      (0xFF009C#24).toNat / 4 = c + logConsumerPlace ∧ (0xFF0090#24).toNat / 4 = c + guardPlace ∧
      (0xFF73E0#24).toNat / 4 = c + deskPlace + 8 * (31 : Fin 32).val ∧
      (0xFF73E4#24).toNat / 4 = c + deskPlace + 8 * (31 : Fin 32).val + 1 ∧
      base.path.regions = some ⟨0, 65536, 0x100000, 0x200000⟩ ∧
      (0x100FFC#24).toNat / 4 = 0x100000 / 4 + (1023 : BitVec 10).toNat := by decide +kernel

theorem meets_HostWriteObserved_regions : base.regionsSound ∧ 1 ≤ base.path.straps.dramMiB :=
  ⟨fun r h => meets_RegionsStaySound.1 r h, by decide +kernel⟩

theorem meets_BusWaits_regions : (portAt base true 0 0).regionsSound := fun r h => meets_RegionsStaySound.1 r h

/-- No engine asks; one that has waited 2 µs; one that has waited less beside the bus; equal waits. -/
theorem meets_GrantOrder :
    let r : Requests := { Requests.none with bus := some 0, sessionA := some 25, sessionB := some 25, poster := some 30 }
    Requests.none.engines = [] ∧ r.engines = [] ++ (.sessionA, 25) :: [(.sessionB, 25), (.poster, 30)] ∧ 25 + 20 ≤ 45 ∧
      ¬ 25 + 20 ≤ 44 ∧ ({ r with bus := none } : Requests).bus = none := by decide +kernel

/-- The coder, with slot 1 PENDING and nothing read of its line, has a read waiting at the port. -/
def slotRead : State := { slots4 with path := { slots4.path with requests := { Requests.none with coder := some 0 } } }

/-- R178: three words of plain DRAM, one at the port and two behind it, and a word elsewhere. -/
def busRun : State :=
  { base with path := { base.path with
      atPort := some (.write 0x4000 15 5), stalled := [.write 0x4001 1 6, .write 0x4002 15 7]
      requests := { Requests.none with bus := some 0 } } }

def busRunWords : List (BitVec 4 × Word) := [(15, 5), (1, 6), (15, 7)]

theorem meets_BusRun_words : busRun.path.atPort.toList ++ busRun.path.stalled =
    busRunWords.zipIdx.map fun o => BusOp.write (0x4000 + o.2) o.1.1 o.1.2 := rfl

theorem meets_BusRun :
    busRunWords.length ≤ 8 ∧ busRun.path.held = none ∧ busRunWords.all (fun o => o.1 != 0) ∧ busRun.path.areaOf 0x4000 = .plain ∧
      busRun.path.areaOf 0x4002 = .plain ∧ busRun.path.headHanded = false ∧ busRun.openRun = none ∧
      busRun.path.requests.grant 0 = some .bus ∧
      (after (.arbiterGrant .bus) busRun).path.stalled = [] ∧
      Memory.readWord (after (.arbiterGrant .bus) busRun).mem 0x4002 = 7 := by decide +kernel

/-- A word of plain DRAM, the one after it, and one elsewhere; the bus has the port until the main clock moves on. -/
theorem meets_BusAccessLasts :
    let s := after (.hostWrite 0x10000 15 5) slotRead
    (15 : BitVec 4) ≠ 0 ∧ slotRead.path.areaOf ((0x10000#24).toNat / 4) = .plain ∧ slotRead.path.held = none ∧
      slotRead.path.stalled = [] ∧ slotRead.portFree ∧ slotRead.openRun = none ∧
      s.openRun = some ⟨.write 0x4000 15 5, 6 + 1, s.clock.now⟩ ∧
      s.path.areaOf ((0x10004#24).toNat / 4) = .plain ∧ s.path.stalled = [] ∧ s.portFree ∧ (0x10004#24).toNat / 4 = 0x4000 + 1 ∧
      (0x1000C#24).toNat / 4 ≠ 0x4000 + 1 ∧ s.path.requests.grant s.clock.now = some .coder ∧
      (after (.arbiterGrant .coder) s).coder.got = 0 ∧
      (after (.arbiterGrant .coder) { s with clock := { s.clock with now := 1 } }).coder.got = 32 := by
  unfold State.portFree State.portFreeAt; decide +kernel

/-- R179: the coder asks, and the grant is its own, for 32 bytes of a slot line where it has none to write; a grant to the
poster cannot happen. -/
theorem test_arbiterGrant :
    let s : State := { base with
      path := { base.path with requests := { Requests.none with coder := some 0 } }
      coder := { base.coder with writes := [(8, 5), (9, 6), (100, 7)] } }
    (after (.arbiterGrant .coder) s).coder.writes = [(100, 7)] ∧ (after (.arbiterGrant .coder) slotRead).coder.got = 32 ∧
      Memory.read (after (.arbiterGrant .coder) s).mem 9 = 6 ∧
      (after (.arbiterGrant .poster) s).coder.writes = [(8, 5), (9, 6), (100, 7)] := by decide +kernel

/-- Each requester is granted in some state, with work of its own; the poster's item stands at the port; a bus word waits
there. -/
theorem meets_ArbiterGrant :
    let r : Requests := Requests.none
    let word (op : BusOp) : State := { base with path := { base.path with
      atPort := some op, requests := { r with bus := some 0 } } }
    base.path.stalled = [] ∧ base.path.headHanded = false ∧ base.openRun = none ∧ (portAt base true 0 0).path.headHanded = true ∧
      (word (.write (0x100A00 / 4) 15 5)).path.atPort = some (.write ((0x100A00#24).toNat / 4) 15 5) ∧
      (word (.write (0x100A00 / 4) 15 5)).path.held = none ∧
      (word (.read 0x80000 15)).path.atPort = some (.read (0x200000 / 4 + (0 : BitVec 10).toNat) 15) ∧ r.grant 0 = none ∧
      ({ r with bus := some 0 } : Requests).grant 0 = some .bus ∧
      ({ r with poster := some 0 } : Requests).grant 0 = some .poster ∧
      ({ r with coder := some 0 } : Requests).grant 0 = some .coder ∧
      ({ r with decoder := some 0 } : Requests).grant 0 = some .decoder ∧
      ({ r with sessionA := some 0 } : Requests).grant 0 = some .sessionA ∧
      ({ r with sessionB := some 0 } : Requests).grant 0 = some .sessionB ∧ firstAccess [(8, 5), (9, 6)] = [(8, 5), (9, 6)] ∧
      firstAccess [(8, 5), (100, 6)] = [(8, 5)] := by decide +kernel

/-! ## Witnesses: chapter 2 -/

theorem meets_OpenCapture :
    base.takes ∧ (capturing base id).takes ∧ (capturing base id).coder.state ≠ .idle ∧ bare.path.regions = none ∧ bare.takes ∧
      ¬ (1024 ≤ (2561 : Word).toNat ∧ (2561 : Word).toNat ≤ 2560 ∧ (2561 : Word).toNat % 64 = 0) ∧
      (1024 ≤ (1024 : Word).toNat ∧ (2560 : Word).toNat ≤ 2560 ∧ (2560 : Word).toNat % 64 = 0) ∧ 2 < (3 : Word).toNat ∧
      base.job 1 = none ∧ ((base.setJob 1 (some (job1 .ready [] []))).job 1).map (·.state) = some .ready ∧
      ((base.setJob 1 (some (job1 .assembling (List.range 64) []))).job 1).map (·.pageList.length) = some 64 ∧
      base.store.pages.lowestFree = some 1 ∧
      (PageTable.lowestFree (Vector.replicate 255 (some page5))) = none := by
  unfold State.takes; decide +kernel

/-- The end of the first block is 1 or 3 code bits away with only END left, and the slot after next PENDING. -/
def endLeft (bits : Nat) : State :=
  capturing (base.setPage 1 (some { Page.filling .scan .store 0 1024 with chain := [31], lineCount := 1, codeBytes := 2047 }))
    fun c => { c with nextLine := 1, codeBits := 16384 - bits, tail := List.replicate (8 - bits) false,
                      slots := #v[.free 8, .free 1, .pending 2, .free 3, .free 4, .free 5, .free 6, .free 7] }

theorem meets_CloseCaptureTaken_end :
    let c : Coder := { (endLeft 1).coder with closing := true }
    (endLeft 1).takes ∧ (endLeft 1).path.held = none ∧ (endLeft 1).path.stalled = [] ∧ c.endCoded = false ∧ c.endsNow ∧
      ((endLeft 1).page c.page).map (fun p => (p.lineCount, p.chain.length)) = some (1, 1) ∧ 16384 * 1 < c.codeBits + 3 ∧
      ¬ 16384 * 1 < (endLeft 3).coder.codeBits + 3 ∧ 8 * 2047 + (endLeft 3).coder.tail.length = (endLeft 3).coder.codeBits := by
  unfold State.takes Coder.endsNow Coder.slotIs; decide +kernel

/-- R33, R39: the slot beyond the gap is FREE again when END's turn comes; END waits for a block, or ends the last byte. -/
theorem test_endTurn :
    (after (.closeCapture 4) (endLeft 1)).coder.slots[2] = .free 10 ∧
      ((after (.closeCapture 4) (endLeft 1)).coder.asked).map (fun c => c.bits.take 3) = some [true, true, true] ∧
      (after (.closeCapture 4) (endLeft 3)).coder.asked = none ∧
      (after (.closeCapture 4) (endLeft 3)).coder.writes = [(31 * 2048 + 2047, 0x07)] := by decide +kernel

/-- CLOSE_CAPTURE in each state of the context. -/
theorem meets_CloseAndAbort :
    base.takes ∧ base.path.held = none ∧ base.path.stalled = [] ∧ base.coder.state = .idle ∧
      (capturing base fun c => { c with state := .full }).coder.state = .full ∧
      (capturing base id).coder.state = .opened ∧ (asks 17 16).page (asks 17 16).coder.page ≠ none ∧ (asks 17 16).takes := by
  unfold State.takes; decide +kernel

/-- A write held in slot 1 while it is PENDING. -/
def heldWrite : State :=
  { slots4 with path := { slots4.path with held := some ⟨.write (0x40000 + 80) 15 5, 0⟩ } }

theorem meets_AbortCapture_held :
    heldWrite.takes ∧ heldWrite.coder.state ≠ .idle ∧ heldWrite.path.held = some ⟨.write (0x40000 + 80) 15 5, 0⟩ ∧
      heldWrite.path.areaOf (0x40000 + 80) = .captureSlot 1 0 ∧ (15 : BitVec 4) ≠ 0 ∧
      lastPosted (0x40000 + 80) heldWrite.path.items = none ∧ heldWrite.portFree := by
  unfold State.takes State.portFree State.portFreeAt; decide +kernel

theorem heldMeets_of {s : State} {h : Held} (e : s.path.held = some h) (m : s.mustHold h.op = true) : s.heldMeets := by
  intro k hk
  rw [e] at hk
  cases hk
  exact m

theorem meets_AbortCapture_meets : heldWrite.heldMeets := heldMeets_of (h := ⟨.write (0x40000 + 80) 15 5, 0⟩) rfl (by decide +kernel)

/-- The refused allocation with that write held; it is released and passes. -/
def asksHeld : State :=
  { asks 16 16 with
    coder := { (asks 16 16).coder with slots := slots4.coder.slots }
    path := { (asks 16 16).path with held := some ⟨.write (0x40000 + 80) 15 5, 0⟩ } }

theorem meets_CaptureAllocationRefused_held :
    Memory.wf asksHeld.mem = true ∧ asksHeld.path.stalled = [] ∧ asksHeld.coder.asked ≠ none ∧ asksHeld.page 1 ≠ none ∧
      asksHeld.store.free.length ≤ asksHeld.store.reserve ∧ asksHeld.path.areaOf (0x40000 + 80) = .captureSlot 1 0 ∧
      (15 : BitVec 4) ≠ 0 ∧ asksHeld.portFree ∧ (after .captureAllocation asksHeld).path.held = none := by
  unfold State.portFree State.portFreeAt; decide +kernel

theorem meets_CaptureAllocationRefused_meets : asksHeld.heldMeets :=
  heldMeets_of (h := ⟨.write (0x40000 + 80) 15 5, 0⟩) rfl (by decide +kernel)

/-- A word held with others behind it, and a word at the port with others behind it. -/
theorem meets_PathInOrder :
    let held : State := { heldWrite with path := { heldWrite.path with stalled := [.write 0x4000 15 5] } }
    let port : State := { base with path := { base.path with atPort := some (.write 0x4000 15 5), stalled := [.write 0x4001 15 5] } }
    held.path.held ≠ none ∧ held.busInOrder ∧ held.holdsInOrder ∧ port.busInOrder ∧ base.busInOrder ∧
      (after .captureHoldExpiry held).path.stalled = [] := by
  refine ⟨by decide +kernel, fun h => ?_, ⟨heldMeets_of (h := ⟨.write (0x40000 + 80) 15 5, 0⟩) rfl (by decide +kernel),
    fun _ => rfl, fun h => ?_, fun _ i => ?_⟩, fun _ h => ?_, fun _ _ => rfl, by decide +kernel⟩
  · exact absurd h (by decide +kernel)
  · exact absurd h (by decide +kernel)
  · have e : ∀ k : Fin 8, heldWrite.render.slots[k] = .noLine := by decide +kernel
    exact e ⟨i % 8, Nat.mod_lt _ (by decide)⟩
  · cases h

/-- A closing coder at its gap, with a page of `lines` lines, END coded and in DRAM with them. -/
def closes (purpose : Purpose) (lines : Nat) : State :=
  let s := capturing (base.setPage 1 (some { Page.filling .scan purpose 1 1024 with
      chain := [31], lineCount := lines, codeBytes := 1 })) fun c =>
    { c with closing := true, nextLine := lines, codeBits := 8, endCoded := decide (0 < lines) }
  { s.setJob 1 (some (job1 .assembling [] [])) with command := { s.command with inProgress := some ⟨2, 9⟩ } }

theorem meets_CloseCaptureComplete :
    let c := (closes .store 2).coder
    Memory.wf (closes .store 2).mem = true ∧ (closes .store 2).path.held = none ∧ (closes .store 2).path.stalled = [] ∧
      (closes .store 2).page c.page ≠ none ∧ (closes .store 2).command.inProgress = some ⟨2, 9⟩ ∧ c.state = .opened ∧
      c.endsNow ∧ c.endCoded = true ∧ c.writes = [] ∧ ({ c with writes := [(0, 1)] } : Coder).writes ≠ [] ∧
      ((closes .store 0).page 1).map (·.lineCount) = some 0 ∧ (closes .store 0).coder.endsNow ∧
      ¬ (capturing base id).coder.endsNow := by
  unfold Coder.endsNow Coder.slotIs; decide +kernel

/-- The three purposes: the job has its list; the decoder renders, holds or starts; the print queue below and at 64. -/
theorem meets_CloseCaptureComplete_purposes :
    ((closes .store 2).page 1).map (fun p => (p.purpose, decide (0 < p.lineCount))) = some (.store, true) ∧
      ((closes .send 2).page 1).map (fun p => (p.purpose, p.job)) = some (.send, 1) ∧ (closes .send 2).job 1 ≠ none ∧
      ((closes .copy 2).page 1).map (·.purpose) = some .copy ∧ (closes .copy 2).render.queue = [] ∧
      (closes .copy 2).render.rendering = false ∧ (closes .copy 2).render.mode = .run ∧
      (let r : Render := { (closes .copy 2).render with queue := (List.range 63).map (· + 100), mode := .hold }
       r.queue.length < 64 ∧ r.mode = .hold) ∧
      (let r : Render := { (closes .copy 2).render with queue := (List.range 64).map (· + 100), mode := .hold }
       64 ≤ r.queue.length) := by decide +kernel

/-- R34, R12: a page of 2 lines is COMPLETE with its code byte, and kept; with the byte still to write it is not. -/
theorem test_closeCaptureComplete :
    let s := closes .store 2
    ((after .closeCaptureComplete s).page 1).map (fun p => (p.complete, p.codeBytes, p.keepHold)) = some (true, 1, true) ∧
      (after .closeCaptureComplete { s with coder := { s.coder with writes := [(31 * 2048, 0x0E)] } }).coder.state = .opened := by
  decide +kernel

/-- Slot 0 of the capture window at width 1024: word 31 completes a line. -/
theorem meets_CaptureWindowWrite :
    Memory.wf slots4.mem = true ∧ slots4.path.regions = some ⟨0, 65536, 0x100000, 0x200000⟩ ∧ 1 ≤ slots4.path.straps.dramMiB ∧
      slots4.path.held = none ∧ slots4.portFree ∧ 640 ≤ (640 : BitVec 10).toNat ∧ (639 : BitVec 10).toNat < 640 ∧
      slots4.coder.slotIs 1 (.pending 1) ∧ slots4.coder.slotIs 0 (.free 8) ∧ 8 ≤ 8190 ∧
      slots4.coder.width = some (32 * ((31 : BitVec 10).toNat % 80 + 1)) ∧
      slots4.coder.width ≠ some (32 * ((30 : BitVec 10).toNat % 80 + 1)) ∧ slots4.coder.state = .opened ∧
      slots4.coder.closing = false ∧ slots4.page slots4.coder.page ≠ none := by
  unfold Coder.slotIs State.portFree State.portFreeAt; decide +kernel

/-- R28: lines 8190 and 8191; R32: a FULL context; R33: a closing one. -/
theorem meets_CaptureWindowWrite_bounds :
    let c (k : Nat) : Coder := { slots4.coder with slots := slots4.coder.slots.set (k % 8) (.free k) (Nat.mod_lt _ (by decide)) }
    (c 8190).slotIs 8190 (.free 8190) ∧ (c 8191).slotIs 8191 (.free 8191) ∧ 8191 ≤ 8191 ∧
      ({ c 8 with state := .full } : Coder).state = .full ∧ ({ c 8 with closing := true } : Coder).closing = true := by
  unfold Coder.slotIs; decide +kernel

theorem base_regionsSound : base.regionsSound := meets_RegionsStaySound.1

theorem meets_CaptureWindowWrite_regions : slots4.regionsSound := fun r h => base_regionsSound r h

theorem meets_CaptureHoldExpiry :
    Memory.wf heldWrite.mem = true ∧ heldWrite.path.held = some ⟨.write (0x40000 + 80) 15 5, 0⟩ ∧ heldWrite.path.stalled = [] ∧
      heldWrite.path.areaOf (0x40000 + 80) = .captureSlot 1 0 ∧ heldWrite.coder.slotIs 1 (.pending 1) ∧
      heldWrite.coder.state = .opened ∧ heldWrite.coder.width = some 1024 ∧ heldWrite.page heldWrite.coder.page ≠ none ∧
      heldWrite.coder.lostReported = false ∧ ¬ 32 * (0 + 1) = 1024 ∧ 32 * (31 + 1) = 1024 ∧ heldWrite.path.atPort = none ∧
      heldWrite.portFreeAt (max heldWrite.clock.now (0 + heldWrite.path.holdLimit * 10)) ∧
      (portAt heldWrite false 620 0).portBusyAt 640 ∧ (portAt heldWrite false 621 0).portFreeAt 640 := by
  unfold Coder.slotIs State.portFreeAt State.portBusyAt; decide +kernel

/-- The coder's next line is the one PENDING in slot 1; the line lost; no line. -/
theorem meets_LineTake :
    let s := slots4
    let lost : Coder := { s.coder with lost := [1] }
    Memory.wf s.mem = true ∧ s.path.held = none ∧ s.path.stalled = [] ∧ s.coder.state = .opened ∧ s.coder.closing = false ∧
      s.coder.asked = none ∧ s.page s.coder.page ≠ none ∧ s.coder.width = some 1024 ∧ s.coder.nextLine = 1 ∧ 1 ∉ s.coder.lost ∧
      s.coder.slotIs 1 (.pending 1) ∧ ¬ 1024 / 8 ≤ s.coder.got ∧ 1024 / 8 ≤ ({ s.coder with got := 128 } : Coder).got ∧
      1 ∈ lost.lost ∧ ¬ ({ s.coder with nextLine := 8 } : Coder).slotIs 8 (.pending 8) ∧
      ¬ s.coder.codeBits + (lineToken s.coder.reference (s.slotLine 1 1024)).length ≤ 16384 * 0 := by
  unfold Coder.slotIs; decide +kernel

/-- A closing coder whose next line is lost, after which END has its turn and finds too little of the block. -/
theorem meets_LineTake_end :
    let c : Coder := { (endLeft 4).coder with
      closing := true, lost := [1], nextLine := 1, slots := (endLeft 4).coder.slots.set 2 (.free 2) }
    c.nextLine ∈ c.lost ∧ c.codeBits + 2 ≤ 16384 * 1 ∧ c.endCoded = false ∧
      ({ c with lost := [], nextLine := 2 } : Coder).endsNow ∧ 16384 * 1 < c.codeBits + 2 + 3 := by
  unfold Coder.endsNow Coder.slotIs; decide +kernel

theorem meets_TakeReleasesHeldWrite :
    let s : State := { heldWrite with coder := { heldWrite.coder with got := 128 } }
    Memory.wf s.mem = true ∧ s.path.stalled = [] ∧ s.coder.nextLine % 8 = 1 ∧
      s.path.areaOf (0x40000 + 80) = .captureSlot (s.coder.nextLine % 8) 0 ∧ s.coder.state = .opened ∧ s.coder.asked = none ∧
      s.coder.nextLine ∉ s.coder.lost ∧ s.coder.slotIs s.coder.nextLine (.pending s.coder.nextLine) ∧
      s.coder.width.getD 0 / 8 ≤ s.coder.got ∧ lastPosted (0x40000 + 80) s.path.items = none ∧ s.portFree := by
  unfold Coder.slotIs State.portFree State.portFreeAt; decide +kernel

/-! ## Witnesses: chapter 3 -/

/-- A queue that begins with page 1, rendering it or not. -/
def printing (mode : PrintMode) (rendering : Bool) (queue : List Nat) : State :=
  let s := withPage base { page5 with printHold := true }
  let r : Render := { s.render with queue := queue, mode := mode }
  { s with render := if rendering then r.started 1 { page5 with printHold := true } else r }

theorem meets_PrintPage :
    (held1 false false false).takes ∧ base.completePage 1 = none ∧ (held1 false false false).completePage 1 ≠ none ∧
      1 ∈ (printing .hold false [1]).render.queue ∧ (printing .hold false [1]).completePage 1 ≠ none ∧
      (printing .hold false ((List.range 64).map (· + 2))).render.queue.length = 64 ∧
      (held1 false false false).render.rendering = false ∧ (held1 false false false).render.mode = .run ∧
      (held1 false false false).render.queue = [] ∧ 0 < page5.lineCount ∧ (printing .run true [2]).render.rendering = true ∧
      (printing .hold false []).render.mode = .hold := by
  unfold State.takes; decide +kernel

theorem meets_EmptyPagePrinted :
    let p (keep : Bool) : Page := { page5 with lineCount := 0, codeBytes := 0, keepHold := keep }
    (withPage base (p false)).takes ∧ (withPage base (p false)).completePage 1 = some (p false) ∧ (p false).lineCount = 0 ∧
      (withPage base (p false)).render.rendering = false ∧ (withPage base (p false)).render.mode = .run ∧
      (withPage base (p false)).render.queue = [] ∧ (p false).sendHold = false ∧ (p true).keepHold = true := by
  unfold State.takes; decide +kernel

/-- END_PRINT while nothing is rendered; while page 1 is, with nothing behind it, with page 2 behind it in RUN, and with a
read held. -/
def twoPages : State := (printing .run true [1, 2]).setPage 2 (some { page5 with chain := [30], printHold := true })

def heldRead (s : State) : State := { s with path := { s.path with held := some ⟨.read 0x80000 15, 0⟩ } }

theorem meets_EndPrint :
    base.takes ∧ base.render.rendering = false ∧ (printing .run true [1]).takes ∧
      (printing .run true [1]).render.rendering = true ∧ (printing .run true [1]).render.queue = 1 :: [] ∧
      (printing .run true [1]).render.page = 1 ∧ (printing .run true [1]).page 1 ≠ none ∧
      (printing .run true [1]).path.held = none ∧ twoPages.takes ∧
      twoPages.render.mode = .run ∧ twoPages.render.queue = 1 :: 2 :: [] ∧ (twoPages.page 2).map (·.lineCount) = some 5 ∧
      (heldRead twoPages).path.held = some ⟨.read 0x80000 15, 0⟩ ∧ (heldRead twoPages).takes := by
  unfold State.takes; decide +kernel

theorem meets_PrintSettings :
    base.takes ∧ 1 < (2 : Word).toNat ∧ (1 : Word).toNat ≤ 1 ∧ base.render.queue = [] ∧
      (printing .hold false [1]).render.mode = .hold ∧ (printing .hold false [1]).render.rendering = false ∧
      (printing .hold false [1]).render.queue = 1 :: [] ∧ (printing .hold false [1]).page 1 ≠ none ∧
      (printing .hold false [1]).takes ∧ (printing .run true [1]).render.rendering = true ∧ (printing .run true [1]).takes ∧
      (1024 : Word).toNat % 64 = 0 ∧ ¬ 1024 ≤ (960 : Word).toNat ∧ ¬ (2624 : Word).toNat ≤ 2560 ∧ (1025 : Word).toNat % 64 ≠ 0 := by
  unfold State.takes; decide +kernel

/-- Page 1 rendering, its next line 0 awaited by slot 0; the other slot states; a page without its code is damaged. -/
def slot0 (s : State) (x : RenderSlot) : State := { s with render := { s.render with slots := s.render.slots.set 0 x } }

theorem meets_Decoder :
    let s := printing .run true [1]
    let read : State := { s with render := { s.render with got := page5.codeBytes } }
    Memory.wf s.mem = true ∧ s.render.rendering = true ∧ s.render.nextLine < s.render.lineCount ∧ s.render.produced = false ∧
      s.render.writing = none ∧ s.render.stopped = false ∧ s.page s.render.page ≠ none ∧ s.render.slotIs 0 (.empty 0 false) ∧
      (slot0 s (.full 8)).render.slotIs 0 (.full 8) ∧ (slot0 s (.empty 0 true)).render.slotIs 0 (.empty 0 true) ∧
      (slot0 s (.empty 8 false)).render.slotIs 0 (.empty 8 false) ∧
      (let r := (slot0 s (.empty 0 true)).render
       let later : Render := { r with nextLine := 8, lineCount := 20 }
       later.slotIs 8 (.empty 0 true) ∧ 0 < later.nextLine) ∧
      s.codeAhead ≠ [] ∧ read.codeAhead = [] ∧ (readLine (s.codeBit page5) page5.width s.render.reference 0).damaged = false ∧
      (readLine (s.codeBit { page5 with codeBytes := 0 }) page5.width s.render.reference 0).damaged = true := by
  unfold Render.slotIs; decide +kernel

/-- R42: reading has stopped before line 1 of 5; nothing is left to read for it, and the white line is placed. -/
theorem meets_RenderLineDecoded_stopped :
    let s := printing .run true [1]
    let stopped : State := { s with render := { s.render with stopped := true, nextLine := 1 } }
    Memory.wf stopped.mem = true ∧ stopped.render.rendering = true ∧ 1 < stopped.render.lineCount ∧ stopped.codeAhead = [] ∧
      stopped.render.produced = false ∧ stopped.render.writing = none ∧ stopped.page stopped.render.page ≠ none ∧
      (after .renderLineDecoded stopped).render.writing = some 1 ∧
      (after .renderLineDecoded stopped).render.reference = List.replicate 1024 false := by decide +kernel

/-- Line 0 being written, with a read held on slot 0. -/
theorem meets_RenderSlotFilled :
    let s := printing .run true [1]
    let w : State := { s with render := { s.render with writing := some 0 } }
    Memory.wf w.mem = true ∧ w.render.writing = some 0 ∧ w.path.stalled = [] ∧ w.path.held = none ∧
      w.render.writes = [] ∧ w.render.slotIs 0 (.empty 0 false) ∧ ¬ (slot0 w .emptyDone).render.slotIs 0 (.empty 0 false) ∧
      (heldRead w).path.held = some ⟨.read 0x80000 15, 0⟩ ∧ (heldRead w).path.areaOf 0x80000 = .renderSlot (0 % 8) 0 ∧
      4 * (0 + 1) < w.render.width / 8 ∧ w.portFree := by
  unfold Render.slotIs State.portFree State.portFreeAt; decide +kernel

/-- At RW = 2048 word 63 ends the slot line and word 64 lies past it; L is 5. -/
theorem meets_RenderSlotRead :
    let s := printing .run true [1]
    Memory.wf s.mem = true ∧ s.path.regions = some ⟨0, 65536, 0x100000, 0x200000⟩ ∧ 1 ≤ s.path.straps.dramMiB ∧
      s.path.held = none ∧ s.portFree ∧ 4 * ((63 : BitVec 10).toNat % 80 + 1) = s.render.width / 8 ∧
      4 * ((62 : BitVec 10).toNat % 80 + 1) < s.render.width / 8 ∧ ¬ 4 * ((64 : BitVec 10).toNat % 80 + 1) ≤ s.render.width / 8 ∧
      ¬ (640 : BitVec 10).toNat < 640 ∧ s.render.slotIs 5 .emptyDone ∧ base.render.slotIs 0 .noLine ∧
      s.render.slotIs 4 (.empty 4 false) ∧ (slot0 s (.full 0)).render.slotIs 0 (.full 0) ∧
      (slot0 s (.empty 0 true)).render.slotIs 0 (.empty 0 true) ∧ 0 + 1 ≠ s.render.lineCount ∧
      0 % 8 = (63 : BitVec 10).toNat / 80 := by
  unfold Render.slotIs State.portFree State.portFreeAt; decide +kernel

theorem meets_RenderSlotRead_regions : (printing .run true [1]).regionsSound := fun r h => base_regionsSound r h

theorem linesInPlace_of {r : Render}
    (h : ∀ i : Fin 8, (match r.slots[i] with | .full k => k % 8 == i.val | .empty k _ => k % 8 == i.val | _ => true) = true) :
    r.linesInPlace := by
  intro i k e
  have := h ⟨i % 8, Nat.mod_lt _ (by decide)⟩
  rcases e with e | ⟨lost, e⟩ <;> unfold Render.slotIs at e <;> simpa [e] using this

/-- A page being printed, line 0 FULL in slot 0 and lines awaited beside it; the slot with line 8, lost, in place of line 0. -/
theorem meets_PathInOrder_lines :
    let r := (slot0 (printing .run true [1]) (.full 0)).render
    r.linesInPlace ∧ ({ r with slots := r.slots.set 0 (.empty 8 true) } : Render).linesInPlace := by
  refine ⟨linesInPlace_of ?_, linesInPlace_of ?_⟩ <;> decide +kernel

/-- A page of 20 lines whose slot 0 is in a state, and whose decoder waits there with line 8. -/
def decoderWaits (x : RenderSlot) : State :=
  let s := slot0 (printing .run true [1]) x
  { s with render := { s.render with lineCount := 20, nextLine := 8, produced := true } }

theorem meets_RenderSlotRead_waits :
    let s := decoderWaits (.full 0)
    Memory.wf s.mem = true ∧ s.path.held = none ∧ s.portFree ∧ s.render.slotIs 0 (.full 0) ∧ 0 + 1 ≠ s.render.lineCount ∧
      0 % 8 = (63 : BitVec 10).toNat / 80 ∧ s.render.produced = true ∧ (after (.renderSlotRead 63 15) s).render.writing = some 8 := by
  unfold Render.slotIs State.portFree State.portFreeAt; decide +kernel

/-- The last line of the page, line 4, FULL in slot 4. -/
def lastLine : State :=
  let s := printing .run true [1]
  { s with render := { s.render with slots := s.render.slots.set 4 (.full 4) } }

theorem meets_PagePrinted :
    Memory.wf lastLine.mem = true ∧ lastLine.path.held = none ∧ lastLine.portFree ∧ (383 : BitVec 10).toNat < 640 ∧
      4 * ((383 : BitVec 10).toNat % 80 + 1) = lastLine.render.width / 8 ∧
      lastLine.render.slotIs ((383 : BitVec 10).toNat / 80) (.full 4) ∧ 4 + 1 = lastLine.render.lineCount ∧
      lastLine.render.queue = 1 :: [] ∧ lastLine.render.page = 1 ∧ lastLine.page 1 ≠ none ∧ lastLine.render.writes = [] := by
  unfold Render.slotIs State.portFree State.portFreeAt; decide +kernel

/-- The slot of the last line marked lost; and page 2 behind page 1 in RUN. -/
theorem meets_PagePrinted_lost :
    let lost : State := { lastLine with render := { lastLine.render with slots := lastLine.render.slots.set 4 (.empty 4 true) } }
    let next : State := { twoPages with render := { twoPages.render with slots := twoPages.render.slots.set 4 (.full 4) } }
    lost.render.slotIs ((383 : BitVec 10).toNat / 80) (.empty 4 true) ∧ lost.render.queue = 1 :: [] ∧ lost.render.page = 1 ∧
      next.render.slotIs ((383 : BitVec 10).toNat / 80) (.full 4) ∧ 4 + 1 = next.render.lineCount ∧
      next.render.queue = 1 :: 2 :: [] ∧ next.render.mode = .run ∧ (next.page 2).map (·.lineCount) = some 5 ∧ next.portFree ∧
      (after (.renderSlotRead 383 15) lost).render.queue = [] ∧ (after (.renderSlotRead 383 15) next).render.page = 2 := by
  unfold Render.slotIs State.portFree State.portFreeAt; decide +kernel

/-- A read held on the last word of line 4, the last of page 1. -/
def lastHeld : State :=
  let s := printing .run true [1]
  { s with path := { s.path with held := some ⟨.read (0x80000 + 383) 15, 0⟩ } }

theorem meets_RenderHoldExpiryPrints :
    Memory.wf lastHeld.mem = true ∧ lastHeld.path.stalled = [] ∧ lastHeld.path.areaOf (0x80000 + 383) = .renderSlot 4 63 ∧
      lastHeld.render.slotIs 4 (.empty 4 false) ∧ 4 * (63 + 1) = lastHeld.render.width / 8 ∧ 4 + 1 = lastHeld.render.lineCount ∧
      lastHeld.render.queue = 1 :: [] ∧ lastHeld.render.page = 1 ∧ lastHeld.page 1 ≠ none ∧
      lastHeld.render.underrunReported = false ∧
      ({ lastHeld.render with underrunReported := true } : Render).underrunReported = true ∧
      (after .renderHoldExpiry lastHeld).render.queue = [] := by
  unfold Render.slotIs; decide +kernel

theorem meets_RenderHoldExpiry :
    let s := heldRead (printing .run true [1])
    Memory.wf s.mem = true ∧ s.path.held = some ⟨.read 0x80000 15, 0⟩ ∧ s.path.stalled = [] ∧
      s.path.areaOf 0x80000 = .renderSlot 0 0 ∧ s.path.areaOf (0x80000 + 63) = .renderSlot 0 63 ∧
      s.render.slotIs 0 (.empty 0 false) ∧ 0 + 1 ≠ s.render.lineCount ∧ 4 * (0 + 1) ≠ s.render.width / 8 ∧
      4 * (63 + 1) = s.render.width / 8 ∧ 0 % 8 = 0 % 8 ∧ s.render.underrunReported = false := by
  unfold Render.slotIs; decide +kernel

theorem meets_RenderHoldExpiry_waits :
    let w := decoderWaits (.empty 0 false)
    let s : State := { w with path := { w.path with held := some ⟨.read (0x80000 + 63) 15, 0⟩ } }
    Memory.wf s.mem = true ∧ s.path.stalled = [] ∧ s.path.areaOf (0x80000 + 63) = .renderSlot 0 63 ∧
      s.render.slotIs 0 (.empty 0 false) ∧ 4 * (63 + 1) = s.render.width / 8 ∧ 0 + 1 ≠ s.render.lineCount ∧ 0 % 8 = 0 % 8 ∧
      s.render.produced = true ∧ (after .renderHoldExpiry s).render.writing = some 8 := by
  unfold Render.slotIs; decide +kernel

/-! ## Witnesses: chapter 4 -/

/-- One line fitted. -/
def oneLine : State := State.powerOnRegisters ⟨16, 1, false⟩

theorem meets_LineSettings :
    base.takes ∧ base.names 0 .A ∧ base.names 1 .B ∧ 1 < (2 : Word).toNat ∧ oneLine.takes ∧ oneLine.fitted .B = false ∧
      3 < (4 : Word).toNat ∧ (3 : Word) = BitVec.ofNat 32 LineMode.outOfService.code ∧ 1 < (2 : Word).toNat ∧
      (1 : Word).toNat ≤ 1 := by
  unfold State.takes State.names; decide +kernel

/-- Line A in a call state, of an outgoing call to the number 3. -/
def onA (state : CallState) : State :=
  lineA base fun u => { u with
    state := state, direction := some .outgoing, number := some [.digit 3], seizeSettings := some ⟨.tone, false, false⟩,
    timer := some 50000000 }

theorem meets_HangUp :
    (onA .connected).takes ∧ (onA .connected).names 0 .A ∧ ((onA .connected).line .A).hook = true ∧
      ((onA .seized).line .A).hook = true ∧ ((onA .ringing).line .A).state = .ringing ∧ ((onA .idle).line .A).state = .idle ∧
      ((onA .recovery).line .A).state = .recovery := by
  unfold State.takes State.names; decide +kernel

/-- A line of two rings to answer that has counted none, one, and 255 bursts; an unfitted line; the guard expired. -/
theorem meets_RingBurst :
    let s (n : Nat) := lineA base fun u => { u with state := .ringing, ringCount := n }
    Memory.wf base.mem = true ∧ 200 ≤ 200 ∧ (base.line .A).state = .idle ∧ ¬ (base.line .A).settings.rings ≤ 1 ∧
      ((s 1).line .A).settings.rings ≤ min 255 (((s 1).line .A).ringCount + 1) ∧ ((s 1).line .A).settings.mode = .both ∧
      (s 1).guard.expired = false ∧ min 255 (((s 255).line .A).ringCount + 1) = 255 ∧ oneLine.fitted .B = false ∧
      base.fitted .A = true ∧ ((onA .recovery).line .A).state = .recovery ∧ ((onA .answering).line .A).state = .answering ∧
      ((onA .progress).line .A).state = .progress ∧ ((onA .connected).line .A).state = .connected := by decide +kernel

/-- R80: SEIZED, and DIALLING before and after the end of the first symbol; one ring to answer; a recipient that the
line serves. -/
def glare (rings : Nat) : State :=
  let s := lineA (onA .seized) fun u => { u with settings := { u.settings with rings := rings } }
  let s := s.setJob 2 (some (job1 .active [1] [{ waiter [.digit 3] with state := .onLine, attempts := 1 }]))
  { s.setCall .A (some call1) with dispatch := { s.dispatch with serving := ⟨some (2, 0), none⟩ } }

theorem meets_Glare :
    Memory.wf (glare 1).mem = true ∧ 200 ≤ 200 ∧ (glare 1).fitted .A = true ∧ ((glare 1).line .A).state = .seized ∧
      ((glare 1).line .A).settings.rings ≤ 1 ∧ ¬ ((glare 2).line .A).settings.rings ≤ 1 ∧
      (glare 1).dispatch.serving.get .A = some (2, 0) ∧ ((glare 1).job 2).map (·.pageList.length) = some 1 ∧
      ((glare 1).recipient 2 0).map (fun r => (r.pagesConfirmed, r.cancelMark)) = some (0, false) ∧ (glare 1).call .A ≠ none ∧
      ((onA .dialling).line .A).state = .dialling ∧ ((onA .dialling).line .A).firstEnded = false := by decide +kernel

theorem meets_LineReturns :
    ((onA .ringing).line .A).state = .ringing ∧ ((onA .idle).line .A).state ≠ .ringing ∧
      ((onA .recovery).line .A).state = .recovery ∧ ((onA .idle).line .A).state ≠ .recovery ∧
      Memory.wf (onA .answering).mem = true ∧ ((onA .answering).line .A).state = .answering := by decide +kernel

/-- Line A in a phase of DIALLING; with a blind seize. -/
def phaseA (p : DialPhase) : State := lineA (onA .dialling) fun u => { u with phase := p }

def blindA (state : CallState) : State := lineA (onA state) fun u => { u with seizeSettings := some ⟨.pulse, true, false⟩ }

theorem meets_Dialling :
    Memory.wf (onA .seized).mem = true ∧ ((onA .seized).line .A).state = .seized ∧
      ((((onA .seized).line .A).seizeSettings).map (·.blind)).getD false = false ∧
      ((((blindA .seized).line .A).seizeSettings).map (·.blind)).getD false = true ∧ ((blindA .seized).line .A).state = .seized ∧
      ((phaseA .waitTone).line .A).state = .dialling ∧ ((phaseA .waitTone).line .A).phase = .waitTone ∧
      ((onA .idle).line .A).state ≠ .seized ∧ ((phaseA (.strobe (.digit 3))).line .A).phase = .strobe (.digit 3) ∧
      ((phaseA (.brk 9)).line .A).phase = .brk (8 + 1) ∧ ((phaseA (.mk 8)).line .A).phase = .mk 8 ∧
      ((phaseA (.brk 0)).line .A).phase = .brk 0 ∧ ((phaseA .gap).line .A).phase = .gap ∧
      ((phaseA .pause).line .A).phase = .pause ∧ ((phaseA .interDigit).line .A).phase = .interDigit := by decide +kernel

/-- PROGRESS with and without a calling burst; the counts of cycles before their limits; the bounds of the classes, of
which 700 ms on is in both on-ranges but no off-part is. -/
theorem meets_Progress :
    let s (b r : Nat) := lineA (onA .progress) fun u => { u with busyRun := b, ringbacks := r, ctone := decide (b = 1) }
    Memory.wf (s 0 0).mem = true ∧ ((s 0 0).line .A).state = .progress ∧ ((s 0 0).line .A).ctone = false ∧
      ((s 1 0).line .A).ctone = true ∧ ((s 1 0).line .A).busyRun < 2 ∧ 2 ≤ ((s 2 0).line .A).busyRun ∧
      ((s 0 8).line .A).ringbacks < 9 ∧ 9 ≤ ((s 0 9).line .A).ringbacks ∧ ((onA .connected).line .A).state ≠ .progress ∧
      ringbackCycle 700 1500 = true ∧ ringbackCycle 2500 5000 = true ∧ ringbackCycle 700 700 = false ∧
      busyCycle 200 700 = true ∧ busyCycle 700 200 = true ∧ busyCycle 199 700 = false ∧ busyCycle 700 701 = false := by
  decide +kernel

theorem meets_LineEndsCall :
    ((onA .seized).line .A).state = .seized ∧ ((phaseA .waitTone).line .A).phase = .waitTone ∧
      ((blindA .seized).line .A).state = .seized ∧ ((onA .progress).line .A).state = .progress ∧
      ((onA .connected).line .A).state = .connected ∧ ((onA .idle).line .A).state ≠ .connected := by decide +kernel

/-! ## Witnesses: chapter 5 -/

/-- A sender on line A that serves recipient 0 of job 2, whose list is page 1 twice over, as records 1 and 2. -/
def sender (x : Session) : State :=
  let s := (withPage (onA .connected) { page5 with codeBytes := 20000, chain := List.range' 0 10 }).setPage 2
    (some { page5 with sendHold := true })
  let s := s.setJob 2 (some (job1 .active [1, 2] [{ waiter [.digit 3] with state := .onLine, attempts := 1 }]))
  { sessA s { x with role := .sender } with dispatch := { s.dispatch with serving := ⟨some (2, 0), none⟩ } }

def sends (state : SessionState) : Session := { Session.powerOn with state := state, negotiated := 2, position := 1, page := 1 }

theorem meets_IdentTaken :
    Memory.wf (sender (sends .waitIdent)).mem = true ∧ ((sender (sends .waitIdent)).session .A).sendsIn .waitIdent ∧
      (List.replicate 20 (49 : Byte)).length ≤ 20 ∧ 1 ≤ 1 ∧ 4 ≤ 4 := by
  unfold Session.sendsIn; decide +kernel

/-- Training at step 4 and at step 1, after two retries and after three; the frames of a GAPS kept over it. -/
def trains (state : SessionState) (step retries : Nat) (gaps : Option (List Nat)) : State :=
  sender { sends state with training := some step, step1Retries := retries, retrainGaps := gaps }

theorem meets_TrainingPassed :
    ((trains .setupSent 4 0 none).session .A).sendsIn .setupSent ∧ ((trains .setupSent 4 0 none).session .A).training = some 4 ∧
      ((trains .burstSent 4 0 none).session .A).sendsIn .burstSent ∧ ((trains .burstSent 4 0 none).session .A).retrainGaps = none ∧
      (trains .burstSent 4 0 none).dispatch.serving.get .A = some (2, 0) ∧ 1 ≤ ((trains .burstSent 4 0 none).session .A).position ∧
      ((trains .burstSent 4 0 none).job 2).bind (fun w => w.pageList[1 - 1]?) = some 1 ∧
      ((trains .burstSent 4 0 none).recipient 2 0) ≠ none ∧ (trains .burstSent 4 0 none).page 1 ≠ none ∧
      ((trains .burstSent 1 0 (some [17, 40])).session .A).retrainGaps = some (17 :: [40]) := by
  unfold Session.sendsIn; decide +kernel

theorem meets_TrainingRetried :
    ((trains .burstSent 4 0 none).session .A).sendsIn .burstSent ∧ 1 < 2 ∧ ((trains .burstSent 1 1 none).session .A).step1Retries < 2 ∧
      ¬ ((trains .burstSent 1 2 none).session .A).step1Retries < 2 := by
  unfold Session.sendsIn; decide +kernel

theorem meets_BurstSent :
    let x : Session := { sends .burst with sending := [.burst 4] }
    ((sender x).session .A).sending = .burst 4 :: [] ∧ ((sender x).session .A).state ≠ .clearing ∧
      ((sender { x with cancelPending := true }).session .A).cancelPending = true ∧
      ((sender { x with state := .setupSent }).session .A).state ≠ .burst := by decide +kernel

theorem meets_DataPayload :
    let s := sender (sends .block)
    s.page (s.session .A).page ≠ none ∧ s.path.regions ≠ none ∧ 63 < blockFrames 20000 0 ∧ ¬ 64 < blockFrames 20000 0 ∧
      14 < blockFrames 20000 1 ∧ ¬ 15 < blockFrames 20000 1 := by decide +kernel

/-- The last of the two session blocks of page 1 and the one before it; a page without code. -/
theorem meets_PageSent :
    let s := sender (sends .headSent)
    Memory.wf s.mem = true ∧ (s.page (s.session .A).page).map (·.codeBytes) = some 20000 ∧
      s.dispatch.serving.get .A = some (2, 0) ∧ s.recipient 2 0 ≠ none ∧ (s.session .A).sendsIn .headSent ∧
      ((sender (sends .blockEndSent)).session .A).sendsIn .blockEndSent ∧ 16384 * (0 + 1) < 20000 ∧ ¬ 16384 * (1 + 1) < 20000 ∧
      ((withPage base { page5 with codeBytes := 0 }).page 1).map (·.codeBytes) = some 0 := by
  unfold Session.sendsIn; decide +kernel

theorem meets_GapsTaken :
    let x (rounds step : Nat) : Session := { sends .blockEndSent with rounds := rounds, negotiated := step }
    ((sender (x 2 2)).session .A).sendsIn .blockEndSent ∧ (sender (x 2 2)).page 1 ≠ none ∧ (List.range 64).length ≤ 64 ∧
      [0, 63].Pairwise (· < ·) ∧ (∀ m ∈ [0, 63], m < blockFrames 20000 0) ∧ ((sender (x 2 2)).session .A).rounds < 3 ∧
      ¬ ((sender (x 3 2)).session .A).rounds < 3 ∧ 1 < ((sender (x 3 2)).session .A).negotiated ∧
      ¬ 1 < ((sender (x 3 1)).session .A).negotiated := by
  unfold Session.sendsIn; decide +kernel

theorem meets_StoreFullTaken :
    ((sender (sends .headSent)).session .A).sendsIn .headSent ∧
      ((sender (sends .blockEndSent)).session .A).sendsIn .blockEndSent := by
  unfold Session.sendsIn; decide +kernel

/-- Position 1 of a list of two pages, and position 2, its last. -/
theorem meets_PageConfirmed :
    let s (n : Nat) := sender { sends .pageEndSent with position := n }
    ((s 1).session .A).sendsIn .pageEndSent ∧ (s 1).dispatch.serving.get .A = some (2, 0) ∧ (s 1).recipient 2 0 ≠ none ∧
      ((s 1).job 2).bind (fun w => w.pageList[1]?) = some 2 ∧ (s 1).page 2 ≠ none ∧
      ((s 2).job 2).map (·.pageList.length) = some ((s 2).session .A).position := by
  unfold Session.sendsIn; decide +kernel

/-- A frame at the data pump, in each of the cases that follow it. -/
theorem meets_FrameSent :
    let data : Frame := .data 0 5 []
    let x (st : SessionState) (f : Frame) : Session := { sends st with sending := [.frame f 2] }
    ((sender (x .block data)).session .A).sending = .frame data 2 :: [] ∧ (∀ c, data ≠ .clear c) ∧
      ((sender (x .block data)).session .A).reads = [] ∧ ((sender { x .block data with reads := [0] }).session .A).reads ≠ [] ∧
      ((sender (x .clearing data)).session .A).state = .clearing ∧
      ((sender { x .block data with cancelPending := true }).session .A).cancelPending = true ∧
      ((sender { x .block data with inHand := [6] }).session .A).inHand = 6 :: [] ∧
      ((sender (x .block data)).session .A).inHand = [] ∧ (sender (x .block data)).page 1 ≠ none ∧
      ((sender { x .headSent (.pageEnd true) with awaiting := some (.pageEnd true) }).session .A).awaiting = some (.pageEnd true) ∧
      ((sender (x .identSent (.ident [] 4 true))).session .A).state = .identSent := by
  refine ⟨by decide +kernel, fun c h => (by cases h), ?_⟩
  decide +kernel

theorem meets_ResponseTimeout :
    let x (st : SessionState) (n : Nat) : Session := { sends st with
      sendings := n, responseTimer := some 9, training := some 4, awaiting := some (.pageEnd true) }
    ((sender (x .burstSent 2)).session .A).responseTimer = some 9 ∧ ((sender (x .burstSent 2)).session .A).sendings < 3 ∧
      3 ≤ ((sender (x .burstSent 3)).session .A).sendings ∧ ((sender (x .pageEndSent 2)).session .A).state ≠ .burstSent ∧
      ((sender (x .pageEndSent 2)).session .A).awaiting = some (.pageEnd true) := by decide +kernel

theorem meets_SessionTimers :
    let x (st : SessionState) : Session := { sends st with identTimer := some 9, idleTimer := some 9 }
    ((sender (x .waitIdent)).session .A).sendsIn .waitIdent ∧ ((sender (x .waitIdent)).session .A).identTimer ≠ none ∧
      ¬ ((sender (x .headSent)).session .A).sendsIn .waitIdent ∧
      ((receiver fun _ => { x .identSent with role := .receiver }).session .A).receivesIn .identSent ∧
      ¬ ((sender (x .waitIdent)).session .A).receivesIn .identSent ∧
      ((receiver fun _ => { x .waitHead with role := .receiver }).session .A).role = .receiver ∧
      ((receiver fun _ => { x .waitHead with role := .receiver }).session .A).idleTimer ≠ none ∧
      ((receiver fun _ => { x .clearing with role := .receiver }).session .A).state = .clearing := by
  unfold Session.sendsIn Session.receivesIn; decide +kernel

/-- A receiver in a state, at page 1 of 30000 code bytes, of which `block` session blocks are taken. -/
def receives (state : SessionState) (f : Session → Session) : State :=
  (receiver fun x => f { x with state := state, page := 1, training := some 4 }).setPage 1
    (some { Page.filling .received .received 0 1728 with codeBytes := 30000, lineCount := 100, chain := List.range 8 })

/-- 19 errors of 19200 bits pass and 20 do not. -/
theorem meets_ReceiverTraining :
    ((receives .identSent id).session .A).role = .receiver ∧ ((receives .identSent id).session .A).state = .identSent ∧
      ((receives .receiving id).session .A).state = .receiving ∧ ((receives .waitBurst id).session .A).state = .waitBurst ∧
      ((receives .waitBurst id).session .A).training = some 4 ∧
      ((receives .waitBurst fun x => { x with training := none }).session .A).training = none ∧
      19 + (4800 * 4 - 19200) ≤ 5 * 4 - 1 ∧ ¬ 20 + (4800 * 4 - 19200) ≤ 5 * 4 - 1 ∧
      ((receives .waitBurst fun x => { x with page := 0 }).session .A).page = 0 := by decide +kernel

theorem meets_PageHeadTaken :
    let x (s : State) := (s.session .A).heard s.clock.now
    (x (receives .waitHead id)).receivesIn .waitHead ∧ (x (receives .waitHead id)).more = true ∧
      (x (receives .waitHead fun x => { x with more := false })).more = false ∧
      base.store.pages.lowestFree = some 1 ∧ PageTable.lowestFree (Vector.replicate 255 (some page5)) = none ∧
      ¬ (¬ (1024 ≤ 2560 ∧ 2560 ≤ 2560 ∧ 2560 % 64 = 0) ∨ 8191 < 8191 ∨ 2624192 < 2624192) ∧ 8191 < 8192 ∧ 2624192 < 2624193 ∧
      (x (receives .receiving id)).receivesIn .receiving ∧ (receives .receiving id).page 1 ≠ none ∧
      (x (receives .receiving fun x => { x with position := 1 })).position = 1 ∧
      (x (receives .waitClear id)).receivesIn .waitClear := by
  unfold Session.receivesIn; decide +kernel

/-- The first frame of a session block; one while the allocation is asked for; one after it; one that does not fit. -/
theorem meets_DataTaken :
    let x (s : State) := (s.session .A).heard s.clock.now
    let asked := receives .receiving fun x => { x with allocAsked := some 8, waitingData := [(0, [])] }
    let later := receives .receiving fun x => { x with frameMap := x.frameMap.set 0 true }
    ((receives .receiving id).session .A).receivesIn .receiving ∧ (receives .receiving id).page 1 ≠ none ∧
      63 < blockFrames 30000 0 ∧ ¬ 64 < blockFrames 30000 0 ∧ frameLength 30000 0 63 = 256 ∧
      (x (receives .receiving id)).storeFailed = false ∧ (x (receives .receiving id)).blockNumber = 0 ∧
      (x (receives .receiving id)).allocAsked = none ∧ (x (receives .receiving id)).fresh ∧ (x asked).allocAsked ≠ none ∧
      (x later).allocAsked = none ∧ ¬ (x later).fresh := by
  unfold Session.receivesIn Session.fresh; decide +kernel

/-- The six cases of BLOCK_END, and WAIT_CLEAR. -/
theorem meets_BlocksTaken :
    let x (s : State) := (s.session .A).heard s.clock.now
    let s (f : Session → Session) := receives .receiving f
    let whole := s fun x => { x with frameMap := Vector.replicate 64 true }
    (x (s id)).receivesIn .receiving ∧ (s id).page 1 ≠ none ∧
      ((x (s fun x => { x with blockNumber := 1 })).blockNumber = 0 + 1 ∧ (x (s fun x => { x with blockNumber := 1 })).fresh) ∧
      5 ≠ (x (s id)).blockNumber ∧ (x (s fun x => { x with allocAsked := some 8 })).allocAsked ≠ none ∧
      (x (s fun x => { x with storeFailed := true })).storeFailed = true ∧ 63 ≠ blockFrames 30000 0 ∧ 64 = blockFrames 30000 0 ∧
      (List.range 64).filter (fun n => !((x whole).frameMap.getD n false)) = [] ∧ (x whole).writes = [] ∧
      (x (s fun x => { x with writes := [(0, 1)] })).writes ≠ [] ∧
      (List.range 64).filter (fun n => !((x (s id)).frameMap.getD n false)) ≠ [] ∧
      (x (receives .waitClear id)).receivesIn .waitClear ∧ ((s id).session .A).drain ≠ .block ∧
      ((s fun x => { x with drain := .block }).session .A).drain = .block ∧
      ((s fun x => { x with drain := .block }).session .A).writes = [] := by
  unfold Session.receivesIn Session.fresh; decide +kernel

/-- A page of 30000 code bytes is whole with two session blocks taken, and not with one or three. -/
theorem meets_PageEndTaken :
    let x (s : State) := (s.session .A).heard s.clock.now
    let s (f : Session → Session) := receives .receiving fun x => f { x with blockNumber := 2 }
    (x (s id)).receivesIn .receiving ∧ (s id).page 1 ≠ none ∧ (x (s id)).storeFailed = false ∧ (x (s id)).writes = [] ∧
      16384 * 2 ≥ 30000 ∧ 16384 * 2 < 30000 + 16384 ∧ ¬ 16384 * 1 ≥ 30000 ∧ ¬ 16384 * 3 < 30000 + 16384 ∧
      (x (s fun x => { x with writes := [(0, 1)] })).writes ≠ [] ∧ (s id).render.queue.length < 64 ∧
      (s id).render.rendering = false ∧ (s id).render.mode = .run ∧ (s id).render.queue = [] ∧
      (x (receives .waitHead fun x => { x with pagesDone := 1 })).receivesIn .waitHead ∧
      0 < (x (receives .waitHead fun x => { x with pagesDone := 1 })).pagesDone ∧
      ((s fun x => { x with drain := .page true }).session .A).receivesIn .receiving ∧
      ((s fun x => { x with drain := .page true }).session .A).drain = .page true ∧
      ((s fun x => { x with drain := .page true }).session .A).writes = [] ∧
      (printing .run true [1]).render.rendering = true ∧ 64 ≤ fullLists.render.queue.length := by
  unfold Session.receivesIn; decide +kernel

/-- RECEIVING after a refused allocation; and a page of 0 lines into an empty queue in RUN. -/
def refusedPage : State := receives .receiving fun x => { x with page := 0, storeFailed := true }

def emptyPage : State :=
  (receives .receiving id).setPage 1 (some { Page.filling .received .received 0 1728 with chain := [31] })

theorem meets_PageEndTaken_refused :
    ((refusedPage.session .A).heard refusedPage.clock.now).receivesIn .receiving ∧
      ((refusedPage.session .A).heard refusedPage.clock.now).storeFailed = true ∧ refusedPage.page 0 = none ∧
      ((after (.pageEndReceived .A true) refusedPage).session .A).endCause = some .protocol ∧
      ((after (.pageHeadReceived .A 1 1728 100 30000) refusedPage).session .A).endCause = some .protocol ∧
      ((emptyPage.session .A).heard emptyPage.clock.now).receivesIn .receiving ∧ emptyPage.page 1 ≠ none ∧
      (emptyPage.session .A).storeFailed = false ∧ 16384 * (emptyPage.session .A).blockNumber ≥ 0 ∧
      16384 * (emptyPage.session .A).blockNumber < 0 + 16384 ∧ (emptyPage.session .A).writes = [] ∧
      emptyPage.render.queue = [] ∧ emptyPage.render.mode = .run ∧ emptyPage.render.rendering = false ∧
      (after (.pageEndReceived .A true) emptyPage).page 1 = none := by
  unfold Session.receivesIn; decide +kernel

/-- A connected line whose session clears; a receiver and a sender that take CLEAR. -/
theorem meets_SessionEnds :
    let x : Session := { sends .clearing with endCause := some .completed, sending := [.frame (.clear 1) 2] }
    let r := (receives .receiving id).setLine .A { LineUnit.powerOn true with state := .connected, direction := some .incoming }
    Memory.wf (sender x).mem = true ∧ ((sender x).line .A).state = .connected ∧ ((sender x).session .A).state = .clearing ∧
      ((sender x).session .A).endCause = some .completed ∧ ((sender x).session .A).sending = .frame (.clear 1) 2 :: [] ∧
      ((sender (sends .headSent)).session .A).role ≠ .none ∧ ((sender (sends .headSent)).session .A).state ≠ .clearing ∧
      (r.line .A).state = .connected ∧ (r.session .A).role = .receiver ∧ (r.line .A).direction = some .incoming ∧
      (r.session .A).page ≠ 0 ∧ r.page 1 ≠ none := by decide +kernel

/-- An idle engine ignores every frame; each frame has a field out of its range; a good frame and a check error. -/
theorem meets_FramesIgnored :
    let x := base.session .A
    ¬ x.sendsIn .waitIdent ∧ x.role ≠ .receiver ∧ ¬ x.sendsIn .setupSent ∧ ¬ x.sendsIn .burstSent ∧ ¬ x.sendsIn .headSent ∧
      ¬ x.sendsIn .blockEndSent ∧ ¬ x.sendsIn .pageEndSent ∧ ¬ x.receivesIn .waitHead ∧ ¬ x.receivesIn .receiving ∧
      ¬ x.receivesIn .waitClear ∧ x.role = .none ∧ 20 < (List.replicate 21 (49 : Byte)).length ∧ 4 < 5 ∧ 64 < 65 := by
  unfold Session.sendsIn Session.receivesIn; decide +kernel

/-- In the state that expects the frame: GAPS out of order and out of range; a frame and a check error. -/
theorem meets_FramesIgnored_ranges :
    ((sender (sends .blockEndSent)).session .A).sendsIn .blockEndSent ∧ ¬ [3, 3].Pairwise (· < ·) ∧
      (∃ n ∈ [64], blockFrames 20000 0 ≤ n) ∧ 64 < (List.range 65).length ∧
      (let good := (Frame.ready).wire
       3 ≤ good.length ∧ good.drop (good.length - 2) = checkBytes (good.take (good.length - 2))) ∧
      ¬ 3 ≤ [(3 : Byte)].length := by
  unfold Session.sendsIn; decide +kernel

theorem meets_SetStationId :
    base.takes ∧ [(0x2B : Byte), 0x30, 0x39, 0x20].all
      (fun b => (decide (0x30 ≤ b.toNat) && decide (b.toNat ≤ 0x39)) || b == 0x20 || b == 0x2B) ∧
      ¬ ((0x30 ≤ (0x3A : Byte).toNat ∧ (0x3A : Byte).toNat ≤ 0x39) ∨ (0x3A : Byte).toNat = 0x20 ∨ (0x3A : Byte).toNat = 0x2B) := by
  unfold State.takes; decide +kernel

/-! ## Witnesses: chapter 6 -/

theorem meets_CreateJob :
    base.takes ∧ 31 < (32 : Word).toNat ∧ 1 < (2 : Word).toNat ∧ ¬ (31 < (31 : Word).toNat ∨ 1 < (1 : Word).toNat) ∧
      base.job 1 = none ∧ (base.setJob 1 (some (job1 .held [] []))).job 2 = none ∧
      (base.setJob 1 (some (job1 .held [] []))).job 1 ≠ none := by
  unfold State.takes; decide +kernel

/-- The job table full. -/
theorem meets_CreateJob_full :
    let s : State := { base with dispatch := { base.dispatch with jobs := Vector.replicate 16 (some (job1 .held [] [])) } }
    s.takes ∧ ∀ j, j < 17 → 1 ≤ j → j ≤ 16 → s.job j ≠ none := by
  unfold State.takes; decide +kernel

/-- The codes before the end code: digits and a 14, which is no symbol; 31 recipients and 32. -/
theorem meets_AddRecipient :
    let s (state : JobState) (n : Nat) := base.setJob 1 (some (job1 state [] (List.replicate n (waiter [.digit 1]))))
    base.takes ∧ (s .assembling 31).takes ∧ base.job 1 = none ∧ ((s .ready 0).job 1).map (·.state) = some .ready ∧
      ((s .assembling 31).job 1).map (·.recipients.length) = some 31 ∧
      ((s .assembling 32).job 1).map (·.recipients.length) = some 32 ∧
      ([2, 1, 15, 3].takeWhile fun c => c ≠ 15) = [2, 1] ∧ [Symbol.digit 2, Symbol.digit 1].map Symbol.code = [2, 1] ∧
      Symbol.wait.code = 13 ∧ ([15, 1].takeWhile fun c => c ≠ 15) = [] ∧ (∃ c ∈ [2, 14], 13 < c) := by
  unfold State.takes; decide +kernel

/-- Job 1 in a state, with a page, a recipient and a release. -/
def withJob (state : JobState) (pages : List Nat) (rs : List Recipient) : State := base.setJob 1 (some (job1 state pages rs))

theorem meets_JobMoves :
    (withJob .assembling [1] [waiter [.digit 1]]).takes ∧ base.job 1 = none ∧
      ((withJob .ready [] []).job 1).map (·.state) = some .ready ∧
      ((withJob .assembling [] [waiter [.digit 1]]).job 1).map (·.pageList) = some [] ∧
      ((withJob .assembling [1] []).job 1).map (·.recipients) = some [] ∧
      ((withJob .assembling [1] [waiter [.digit 1]]).job 1).map (fun x => (x.state, x.pageList, x.recipients.length)) =
        some (.assembling, [1], 1) ∧ (withJob .assembling [1] []).coder.state = .idle ∧
      (let s := capturing (withJob .assembling [1] []) fun c => { c with job := 1 }
       s.coder.state ≠ .idle ∧ s.coder.job = 1) ∧
      ((withJob .held [] []).job 1).map (·.state) = some .held ∧ ((withJob .finished [] []).job 1).map (·.state) = some .finished := by
  unfold State.takes; decide +kernel

/-- A recipient on the line, of job 1, served by line A in a call state. -/
def onLine : Recipient := { waiter [.digit 3] with state := .onLine, attempts := 1 }

def served (state : CallState) (session : Session) : State :=
  let s := (onA state).setJob 1 (some (job1 .active [1] [onLine, waiter [.digit 4]]))
  { sessA s session with dispatch := { s.dispatch with serving := ⟨some (1, 0), none⟩ } }

theorem meets_CancelJob :
    base.takes ∧ base.path.held = none ∧ base.path.stalled = [] ∧ base.job 1 = none ∧ base.coder.state = .idle ∧
      ((withJob .finished [] []).job 1).map (·.state) = some .finished ∧
      (let s := capturing ((withJob .assembling [] []).setPage 1 (some (Page.filling .scan .send 1 1024))) fun c => { c with job := 1 }
       s.takes ∧ s.coder.state = .opened ∧ s.coder.job = 1 ∧ s.page s.coder.page ≠ none) ∧
      (let s := capturing (withJob .assembling [] []) fun c => { c with state := .full, job := 1 }
       s.takes ∧ s.coder.state = .full ∧ s.coder.job = 1 ∧ (after (.cancelJob 3 1) s).coder.state = .idle) ∧
      (withJob .ready [1] [waiter [.digit 1]]).dispatch.serving = ⟨none, none⟩ ∧
      (∀ r ∈ [waiter [.digit 1]], r.state ≠ .onLine) ∧ (withJob .ready [1] [waiter [.digit 1]]).takes ∧
      (served .dialling Session.powerOn).takes ∧ (served .dialling Session.powerOn).dispatch.serving.get .A = some (1, 0) ∧
      (served .dialling Session.powerOn).dispatch.serving.get .B = none ∧ (∃ r ∈ [onLine, waiter [.digit 4]], r.state = .onLine) ∧
      ((served .dialling Session.powerOn).line .A).state ≠ .connected ∧
      ((served .connected { sends .block with role := .sender }).line .A).state = .connected ∧
      ((served .connected { sends .block with role := .sender }).session .A).role = .sender ∧
      ((served .connected { sends .block with role := .sender }).session .A).cancelPending = false := by
  unfold State.takes; decide +kernel

/-- A job that both lines serve: A connected with a session that the cancel reaches, B before its answer. -/
def servedTwice : State :=
  let s := served .connected { sends .block with role := .sender }
  let s := (s.setJob 1 (some (job1 .active [1] [onLine, onLine]))).setLine .B { s.line .A with state := .progress }
  { s with dispatch := { s.dispatch with serving := ⟨some (1, 0), some (1, 1)⟩ } }

theorem meets_CancelJob_both :
    servedTwice.takes ∧ servedTwice.servesJob .A 1 = true ∧ servedTwice.servesJob .B 1 = true ∧
      servedTwice.cancelReaches .A = true ∧ servedTwice.cancelReaches .B = false ∧ (servedTwice.line .B).state ≠ .connected ∧
      (∀ l, (withJob .ready [1] [waiter [.digit 1]]).servesJob l 1 = false) ∧
      (after (.cancelJob 3 1) servedTwice).dispatch.cancelSent = ⟨false, true⟩ := by
  unfold State.takes
  refine ⟨by decide +kernel, by decide +kernel, by decide +kernel, by decide +kernel, by decide +kernel, by decide +kernel,
    fun l => by cases l <;> decide +kernel, by decide +kernel⟩

/-- A job with an OPEN capture: with no recipient it finishes, and with one ON_LINE that one is marked. -/
def capturingJob (rs : List Recipient) : State :=
  capturing ((withJob .assembling [] rs).setPage 1 (some (Page.filling .scan .send 1 1024))) fun c => { c with job := 1 }

theorem meets_CancelJob_open :
    (capturingJob []).takes ∧ (capturingJob []).coder.state = .opened ∧ (capturingJob []).coder.job = 1 ∧
      (capturingJob []).page 1 ≠ none ∧ (∀ l, (capturingJob []).servesJob l 1 = false) ∧ (capturingJob [onLine]).takes ∧
      (∃ r ∈ [onLine], r.state = .onLine) ∧ ((after (.cancelJob 3 1) (capturingJob [])).job 1).map (·.state) = some .finished ∧
      ((after (.cancelJob 3 1) (capturingJob [onLine])).recipient 1 0).map (·.cancelMark) = some true := by
  unfold State.takes
  refine ⟨by decide +kernel, by decide +kernel, by decide +kernel, by decide +kernel, fun l => by cases l <;> decide +kernel,
    by decide +kernel, by decide +kernel, by decide +kernel, by decide +kernel⟩

/-- A WAITING recipient that is the job's last to settle, and one that is not; one ON_LINE; those of another state. -/
theorem meets_CancelRecipient :
    let r : Recipient := waiter [.digit 1]
    (withJob .ready [1] [r]).takes ∧ ((withJob .ready [1] [r]).job 1).bind (fun x => x.recipients[1]?) = none ∧
      ((withJob .ready [1] [r]).job 1).bind (fun x => x.recipients[0]?) = some r ∧ r.state = .waiting ∧
      ({ job1 .ready [1] [r] with recipients := [{ r with state := .cancelled }] } : Job).settledAll ∧
      ¬ ({ job1 .ready [1] [r, r] with recipients := [{ r with state := .cancelled }, r] } : Job).settledAll ∧
      ((withJob .assembling [1] [r]).job 1).map (·.state) = some .assembling ∧ onLine.state = .onLine ∧ onLine.cancelMark = false ∧
      (served .dialling Session.powerOn).dispatch.serving.get .A = some (1, 0) ∧
      (served .dialling Session.powerOn).dispatch.serving.get .B ≠ some (1, 0) := by
  unfold State.takes Job.settledAll; decide +kernel

/-- A cancel has been sent to the line. -/
def cancelled (state : CallState) (session : Session) : State :=
  let s := served state session
  { s with dispatch := { s.dispatch with cancelSent := ⟨true, false⟩ } }

/-- R120: with no cancel sent the row leaves an outgoing call as it is. -/
theorem test_lineCancel :
    ((after (.lineCancel .A) (served .seized Session.powerOn)).line .A).state = .seized ∧
      ((after (.lineCancel .A) (cancelled .seized Session.powerOn)).line .A).endCause = some .cancelled := by decide +kernel

theorem meets_LineCancel :
    (cancelled .seized Session.powerOn).dispatch.cancelSent.get .A = true ∧ base.dispatch.cancelSent.get .A = false ∧
      (cancelled .connected { sends .block with role := .sender }).cancelReaches .A = true ∧
      (cancelled .connected { sends .block with role := .sender, cancelPending := true }).cancelReaches .A = false ∧
      Memory.wf (cancelled .seized Session.powerOn).mem = true ∧ ((served .seized Session.powerOn).line .A).direction = some .outgoing ∧
      ((served .seized Session.powerOn).line .A).state = .seized ∧
      ((served .progress Session.powerOn).line .A).state = .progress ∧
      ((served .connected { sends .block with role := .sender }).session .A).role = .sender ∧
      ((served .connected { sends .block with role := .sender }).session .A).state ≠ .clearing ∧
      ((served .recovery Session.powerOn).line .A).state = .recovery ∧ (base.line .A).direction ≠ some .outgoing := by
  decide +kernel

theorem base_job (j : Nat) : base.job j = none := by
  unfold State.job JobTable.get
  split
  · rfl
  · show ((Vector.replicate 16 (none : Option Job))[j - 1]?).join = none
    rw [Vector.getElem?_replicate]
    split <;> rfl

theorem withJob_job {state : JobState} {pages : List Nat} {rs : List Recipient} {j : Nat} {w : Job}
    (h : (withJob state pages rs).job j = some w) : j = 1 ∧ w = job1 state pages rs := by
  by_cases hj : j = 1
  · subst hj; exact ⟨rfl, (Option.some.inj h).symm⟩
  · refine absurd h ?_
    unfold State.job JobTable.get
    split
    · exact nofun
    · rename_i h0
      show ¬ (((Vector.replicate 16 (none : Option Job)).setIfInBounds 0 _)[j - 1]?).join = some w
      rw [Vector.getElem?_setIfInBounds_ne (by omega), Vector.getElem?_replicate]
      split <;> exact nofun

/-- No read is under way where the list is empty and nothing has arrived. -/
theorem quiet_of {s : State} (h1 : s.command.fetched = none) (h2 : s.path.items = []) : s.quietReads := by
  refine ⟨h1, fun item h => ?_⟩
  rw [h2] at h
  cases h

/-- One job with one recipient: it is the only one eligible, and so the choice. -/
theorem ready_eligible {j i : Nat} {w : Job} {r : Recipient}
    (h : (withJob .ready [1] [waiter [.digit 5]]).eligible j i w r) : j = 1 ∧ i = 0 := by
  obtain ⟨hj, hr, -⟩ := h
  obtain ⟨rfl, rfl⟩ := withJob_job hj
  refine ⟨rfl, ?_⟩
  cases i with
  | zero => rfl
  | succ n => simp [job1] at hr

theorem meets_DispatchChoice_choice :
    (withJob .ready [1] [waiter [.digit 5]]).choice 1 0 (job1 .ready [1] [waiter [.digit 5]]) (waiter [.digit 5]) := by
  refine ⟨?_, fun j' i' w' r' h => ?_⟩
  · unfold State.eligible; decide +kernel
  · obtain ⟨rfl, rfl⟩ := ready_eligible h
    simp

/-- Line A free; line B free with line A in a call; the gates: barred, over the limit, no room. -/
theorem meets_DispatchChoice :
    let s := withJob .ready [1] [waiter [.digit 5]]
    let poor := s.setDesk 4 { Desk.powerOn with allowance := 500, spent := 500 }
    let full : State := { s with charge := { s.charge with logProducer := 128 } }
    let barred : State := { s with mem := Memory.writeWord [] (s.path.straps.controlBase + zonePlace) 1 }
    let v := s.readNow s.choiceDesks .charge choiceReads
    let b := barred.readNow barred.choiceDesks .charge choiceReads
    Memory.wf s.mem = true ∧ s.dispatch.asked = none ∧ s.lineFree .A ∧ s.lineFree .B ∧ ¬ (onA .seized).lineFree .A ∧
      (onA .seized).lineFree .B ∧ s.quietReads ∧ v.zoneBarred (v.zoneOf [.digit 5]) = false ∧
      (s.desk 4).allowance = 0 ∧ s.charge.unconsumed + s.charge.openCount < 128 ∧ (poor.desk 4).allowance ≤ (poor.desk 4).spent ∧
      (poor.desk 4).allowance ≠ 0 ∧ ¬ full.charge.unconsumed + full.charge.openCount < 128 ∧ full.dispatch.logFull = false ∧
      b.zoneBarred (b.zoneOf [.digit 5]) = true ∧ Memory.wf barred.mem = true ∧ s.busQuiet := by
  unfold State.lineFree State.busQuiet
  refine ⟨?_, ?_, ?_, ?_, ?_, ?_, quiet_of rfl rfl, ?_⟩ <;> decide +kernel

/-- Words of the control area, as the host has written them. -/
def words (s : State) (ws : List (Nat × Word)) : State :=
  { s with mem := ws.foldl (fun m p => Memory.writeWord m (s.path.straps.controlBase + p.1) p.2) s.mem }

/-- R124: recipient 0 is barred by the zone of its number, and the choice made again takes recipient 1. -/
theorem test_choiceAgain :
    let s := words (withJob .ready [1] [waiter [.digit 5], waiter [.digit 6]]) [(prefixPlace, 0x00500301), (zonePlace + 3, 1)]
    let t := after .dispatchChoice s
    (t.recipient 1 0).map (·.state) = some .failed ∧ t.dispatch.asked = some (.A, 1, 1) := by decide +kernel

/-- A posting of a prefix word waits in the list, and the coder has a byte to write, when a seize asks for its reads. -/
theorem meets_EventReads :
    let s : State := { base with
      path := { base.path with postings := [.write (base.path.straps.controlBase + prefixPlace) 0x00500301] }
      coder := { base.coder with writes := [(8, 5)] } }
    let v := s.readNow [] .charge prefixReads
    Memory.wf s.mem = true ∧ prefixReads ≠ [] ∧ s.busQuiet ∧ v.path.items = [] ∧ v.coder.writes = [] ∧
      ¬ s.engineWrites (s.path.straps.controlBase + prefixPlace) ∧
      Memory.readWord v.mem (s.path.straps.controlBase + prefixPlace) = 0x00500301 ∧ v.tableWord prefixPlace = 0x00500301 := by
  unfold State.busQuiet State.engineWrites; decide +kernel

/-- R176, R179: a word of plain DRAM, of the tariff, or of another desk at the port is made while an event that acts on desk 0
waits for its reads; one that writes a field of desk 0 is left at the port until after it. -/
theorem test_busWhileReading :
    let bus (op : BusOp) : State := { base with path := { base.path with
      atPort := some op, requests := { Requests.none with bus := some 0 } } }
    ((bus (.write 0x4000 15 5)).readNow [0] .charge prefixReads).path.atPort = none ∧
      ((bus (.write (base.path.straps.controlBase + zonePlace) 15 5)).readNow [0] .charge prefixReads).path.atPort = none ∧
      ((bus (.write (base.path.straps.controlBase + deskPlace + 8) 15 5)).readNow [0] .charge prefixReads).path.atPort = none ∧
      ((bus (.write (base.path.straps.controlBase + deskPlace) 15 5)).readNow [0] .charge prefixReads).path.atPort ≠ none := by
  decide +kernel

theorem meets_NoChoice :
    ({ base with dispatch := { base.dispatch with asked := some (.A, 1, 0) } } : State).dispatch.asked ≠ none ∧
      (∀ l, ¬ ({ base with guard := { base.guard with expired := true } } : State).lineFree l) ∧
      ∀ j i w r, ¬ base.eligible j i w r := by
  refine ⟨by decide +kernel, fun l => ?_, fun j i w r h => ?_⟩
  · unfold State.lineFree; cases l <;> decide +kernel
  · have := h.1
    rw [base_job] at this
    cases this


/-- The seize asked for on line A with line B in a call; on line A in a call with line B free; of nobody eligible. -/
theorem meets_SeizeTaken :
    let s := withJob .ready [1] [waiter [.digit 5]]
    let busyB := s.setLine .B { s.line .B with state := .connected }
    let busyA := s.setLine .A { s.line .A with state := .connected }
    Memory.wf s.mem = true ∧ busyB.eligible 1 0 (job1 .ready [1] [waiter [.digit 5]]) (waiter [.digit 5]) ∧ busyB.lineFree .A ∧
      ¬ busyB.lineFree .B ∧ ¬ busyA.lineFree .A ∧ busyA.lineFree .B ∧
      busyA.eligible 1 0 (job1 .ready [1] [waiter [.digit 5]]) (waiter [.digit 5]) := by
  unfold State.eligible State.lineFree; decide +kernel

/-- A seize asked for on line A, of recipient 0 of job 1, with both lines free and recipient 1 waiting too. -/
def askedA : State :=
  let s := withJob .ready [1] [waiter [.digit 5], waiter [.digit 6]]
  { s with dispatch := { s.dispatch with asked := some (.A, 1, 0) } }

/-- The same after a ring burst on line A, and with neither line free. -/
def askedRinging : State := askedA.setLine .A { askedA.line .A with state := .ringing }
def askedBusy : State := askedRinging.setLine .B { askedA.line .B with state := .ringing }

/-- R123: the seize accepted on line A asks for recipient 1 on line B in the same event. -/
theorem meets_SeizeTaken_next :
    askedA.quietReads ∧ askedA.busQuiet ∧ askedA.lineFree .A ∧ askedA.lineFree .B ∧ askedA.dispatch.asked = some (.A, 1, 0) ∧
      askedA.eligible 1 1 (job1 .ready [1] [waiter [.digit 5], waiter [.digit 6]]) (waiter [.digit 6]) ∧
      (after (.seize .A) askedA).dispatch.asked = some (.B, 1, 1) := by
  refine ⟨quiet_of rfl rfl, ⟨rfl, rfl⟩, ?_⟩
  unfold State.eligible State.lineFree; decide +kernel

/-- R123, R126: a cancel after the choice, with line A free, with line B free only, and with no line free. -/
theorem meets_CancelAfterChoice :
    askedA.takes ∧ askedA.quietReads ∧ askedA.busQuiet ∧ askedRinging.quietReads ∧ askedBusy.quietReads ∧
      askedA.eligible 1 0 (job1 .ready [1] [waiter [.digit 5], waiter [.digit 6]]) (waiter [.digit 5]) ∧
      (waiter [.digit 5]).cancelMark = false ∧ askedA.lineFree .A ∧ ¬ askedRinging.lineFree .A ∧ askedRinging.lineFree .B ∧
      ¬ askedBusy.lineFree .A ∧ ¬ askedBusy.lineFree .B := by
  refine ⟨?_, quiet_of rfl rfl, ⟨rfl, rfl⟩, quiet_of rfl rfl, quiet_of rfl rfl, ?_⟩
  · unfold State.takes; decide +kernel
  · unfold State.eligible State.lineFree; decide +kernel

/-- The recipient of job 1 as the cancel leaves it. -/
def shown (t : State) (i : Nat) : Option (RecipientState × Bool × Nat × Option Line) :=
  (t.recipient 1 i).map fun r => (r.state, r.cancelMark, r.attempts, r.lastLine)

theorem test_cancelRecipientAfterChoice :
    let t := after (.cancelRecipient 7 1 0) askedA
    shown t 0 = some (.onLine, true, 1, some .A) ∧ t.dispatch.asked = some (.B, 1, 1) ∧ (answerOf t).1 = 1 := by decide +kernel

theorem test_cancelRecipientRefusedSeize :
    shown (after (.cancelRecipient 7 1 0) askedRinging) 0 = some (.onLine, true, 1, some .B) ∧
      shown (after (.cancelRecipient 7 1 0) askedBusy) 0 = some (.cancelled, false, 0, none) := by decide +kernel

theorem test_cancelJobAfterChoice :
    let q := after (.cancelJob 7 1) askedA
    shown q 0 = some (.onLine, true, 1, some .A) ∧ shown q 1 = some (.onLine, true, 1, some .B) := by decide +kernel

theorem meets_SeizeNotAsked : ∀ j i, base.dispatch.asked ≠ some (Line.A, j, i) := fun _ _ h => by cases h

/-! ## Witnesses: chapter 7 -/

/-- Entry 0: the digit 2, zone 3; entry 1: the digits 20, zone 4 (section 11.5); both match 201. -/
def prefixes : State := words base [(prefixPlace, 0x00200301), (prefixPlace + 2, 0x00200402)]

theorem meets_ZoneOfNumber :
    (prefixes.prefixEntry 0).length = 1 ∧ (prefixes.prefixEntry 1).length = 2 ∧ (prefixes.prefixEntry 2).length = 0 ∧
      (∀ d ∈ (prefixes.prefixEntry 1).digits.take 2, d ≤ 9) ∧ (prefixes.prefixEntry 1).digits.take 2 <+: [2, 0, 1] ∧
      (prefixes.prefixEntry 0).digits.take 1 <+: [2, 0, 1] ∧ (prefixes.prefixEntry 1).zone < 16 ∧
      prefixes.zoneOf [.digit 2, .wait, .digit 0, .digit 1] = 4 ∧ prefixes.zoneOf [.digit 3] = 0 := by decide +kernel

/-- Two switch points of a weekday, at 08:00 and at 18:00 (section 11.5). -/
def points : State :=
  let s := words base [(bandPlace, 0x01000801), (bandPlace + 1, 0x02001201)]
  { s with clock := { s.clock with unset := false, calendar := ⟨2024, 3, 5, 1, 18, 0, 0⟩ } }

theorem meets_BandInForce :
    base.clock.unset = true ∧ points.clock.unset = false ∧ (switchPoint (points.tableWord (bandPlace + 1))).enable = true ∧
      (switchPoint (points.tableWord (bandPlace + 1))).hour = 18 ∧ (switchPoint (points.tableWord bandPlace)).hour = 8 ∧
      (switchPoint (points.tableWord (bandPlace + 2))).enable = false ∧ points.bandNow = 2 := by decide +kernel

/-- Tariff words, in bytes from C: 7400h is the first and 78A4h the last. -/
theorem meets_TariffWrite :
    let d := base.path.straps.dramMiB * 1048576
    4 ∣ (0xFF7400#24).toNat ∧ d - 65536 + 0x7400 ≤ (0xFF7400#24).toNat ∧ 4 ∣ (0xFF78A4#24).toNat ∧
      (0xFF78A4#24).toNat < d - 65536 + 0x7400 + 1192 ∧ ¬ (0xFF78A8#24).toNat < d - 65536 + 0x7400 + 1192 ∧
      base.charge.locked = false ∧ base.path.held = none ∧ base.path.atPort = none := by decide +kernel

/-- The tariff locked, with and without an absorbed write reported. -/
def lockedTariff (reported : Bool) : State :=
  { base with charge := { base.charge with locked := true, absorbedReported := reported } }

theorem meets_LockTariff :
    (lockedTariff false).takes ∧ (lockedTariff false).charge.locked = true ∧ (lockedTariff true).charge.absorbedReported = true ∧
      (lockedTariff false).charge.absorbedReported = false ∧ base.takes ∧ base.charge.locked = false := by
  unfold State.takes; decide +kernel

/-- An open call on line A, for recipient 0 of job 2 and desk 4; the desk's allowance and its spending. -/
def calling (state : CallState) (c : CallRecord) (allowance spent : Word) : State :=
  let s := (onA state).setJob 2 (some (job1 .active [1] [onLine]))
  let s := (s.setCall .A (some c)).setDesk 4 { Desk.powerOn with allowance := allowance, spent := spent }
  { s with dispatch := { s.dispatch with serving := ⟨some (2, 0), none⟩ } }

theorem meets_AnswerDetected :
    let s := calling .progress call1 0 0
    Memory.wf s.mem = true ∧ ((onA .seized).line .A).state ≠ .progress ∧ (s.line .A).state = .progress ∧ s.call .A = some call1 ∧
      s.servesFor .A 2 0 (job1 .active [1] [onLine]) onLine ∧ call1.metered = false ∧
      ((calling .progress { call1 with metered := true } 0 0).call .A).map (·.metered) = some true ∧
      ¬ ((s.desk 4).charged 5).crosses ∧ ¬ (((s.desk 4).charged 5).charged 5).crosses := by
  unfold State.servesFor Desk.crosses; decide +kernel

theorem meets_AnswerDetected_quiet : (calling .progress call1 0 0).quietReads ∧ (calling .progress call1 0 0).busQuiet :=
  ⟨quiet_of rfl rfl, rfl, rfl⟩

/-- A charge of 0, one below the allowance and one that reaches it. -/
theorem meets_Charges :
    let s := calling .connected { call1 with nextDue := some 600 } 500 400
    Memory.wf s.mem = true ∧ (s.line .A).state = .connected ∧ (s.call .A).bind (·.nextDue) = some 600 ∧
      ¬ ((s.desk 4).charged 99).crosses ∧ ((s.desk 4).charged 100).crosses ∧ ((onA .progress).line .A).state ≠ .connected ∧
      (s.line .A).hook = true ∧ (s.line .A).direction = some .outgoing ∧ (40 ≤ 40 ∧ 200 ≤ 200) ∧ ¬ 40 ≤ 39 ∧ ¬ 201 ≤ 200 ∧
      ((calling .connected { call1 with metered := true } 0 0).call .A).map (·.metered) = some true ∧ call1.metered = false := by
  unfold Desk.crosses; decide +kernel

theorem meets_UnitDue_quiet : (calling .connected { call1 with nextDue := some 600 } 500 400).quietReads ∧
    (calling .connected { call1 with nextDue := some 600 } 500 400).busQuiet := ⟨quiet_of rfl rfl, rfl, rfl⟩

/-- A spending written below the allowance and at it; the lock. -/
theorem meets_DeskFieldWrite :
    let s := calling .connected call1 500 400
    let k (v : Word) : Desk := { s.desk 4 with spent := mergeBytes (s.desk 4).spent 15 v }
    Memory.wf s.mem = true ∧ s.path.held = none ∧ s.path.atPort = none ∧ s.portFree ∧ 1 ≤ s.path.straps.dramMiB ∧
      s.charge.locked = false ∧ ¬ (k 499).crosses ∧ (k 500).crosses ∧ k 400 = s.desk 4 ∧ k 499 ≠ s.desk 4 ∧
      (lockedTariff false).charge.locked = true := by
  unfold Desk.crosses State.portFree State.portFreeAt; decide +kernel

theorem meets_CallLogConsumerWrite :
    let s (n : BitVec 16) : State := { base with charge := { base.charge with logProducer := n } }
    Memory.wf (s 128).mem = true ∧ 128 ≤ (s 128).charge.unconsumed + (s 128).charge.openCount ∧
      ((s 128).charge.logProducer - consumerAs 128 0 1).toNat + (s 128).charge.openCount < 128 ∧
      ¬ 128 ≤ (s 127).charge.unconsumed + (s 127).charge.openCount ∧ (s 128).path.held = none ∧ (s 128).portFree := by
  unfold State.portFree State.portFreeAt; decide +kernel

/-- R125, R150: the room that returns brings a choice of a job that waits, in the same event. -/
theorem meets_CallLogConsumerWrite_choice :
    let s : State := { withJob .ready [1] [waiter [.digit 5]] with
      charge := { (withJob .ready [1] [waiter [.digit 5]]).charge with logProducer := 128 } }
    128 ≤ s.charge.unconsumed + s.charge.openCount ∧ s.dispatch.asked = none ∧ s.lineFree .A ∧
      s.eligible 1 0 (job1 .ready [1] [waiter [.digit 5]]) (waiter [.digit 5]) ∧
      s.path.stalled = [] ∧ (after (.callLogConsumerWrite 15 1) s).dispatch.asked = some (.A, 1, 0) ∧
      (after (.hostWrite (BitVec.ofNat 24 (4 * (s.path.straps.controlBase + logConsumerPlace))) 15 1) s).dispatch.asked =
        some (.A, 1, 0) := by
  unfold State.eligible State.lineFree; decide +kernel

/-- R125, log 14: a write of the consumer index that has waited behind a word at the port asks for a grant of its own, and that
grant brings the choice. -/
theorem test_roomAtGrant :
    let s := withJob .ready [1] [waiter [.digit 5]]
    let s : State := { s with
      charge := { s.charge with logProducer := 128 }
      path := { s.path with
        atPort := some (.write 0x4000 15 5), requests := { Requests.none with bus := some 0 }
        stalled := [.write (s.path.straps.controlBase + logConsumerPlace) 15 1] } }
    let t := after (.arbiterGrant .bus) s
    t.path.atPort = some (.write (s.path.straps.controlBase + logConsumerPlace) 15 1) ∧ t.path.stalled = [] ∧
      t.dispatch.asked = none ∧
      (after (.arbiterGrant .bus) { t with clock := { t.clock with now := 1 } }).dispatch.asked = some (.A, 1, 0) := by
  decide +kernel

/-! ## Witnesses: chapter 8 -/

theorem meets_CalendarAdvance :
    (⟨2024, 2, 28, 2, 23, 59, 59⟩ : Calendar).day < 29 ∧ (⟨2024, 2, 29, 3, 23, 59, 59⟩ : Calendar).day = 29 ∧
      (⟨2099, 12, 31, 3, 23, 59, 59⟩ : Calendar).month = 12 ∧ 58 < 59 ∧ 22 < 23 := by decide

theorem meets_Weekdays :
    let c : Calendar := ⟨2099, 12, 30, 2, 0, 0, 0⟩
    2000 ≤ c.year ∧ c.year ≤ 2099 ∧ 1 ≤ c.month ∧ c.month ≤ 12 ∧ 1 ≤ c.day ∧ c.day ≤ daysInMonth c.year c.month ∧
      ¬ (c.year = 2099 ∧ c.month = 12 ∧ c.day = 31) := by decide

theorem meets_SetClock :
    let stopped : State := { base with clock := { base.clock with stopped := true } }
    let read : State := { base with clock := { base.clock with readOpen := true } }
    base.takes ∧ stopped.takes ∧ read.takes ∧ base.clock.stopped = false ∧ stopped.clock.stopped = true ∧
      read.clock.readOpen = true ∧ 2000 ≤ (2099 : Word).toNat ∧ (2099 : Word).toNat ≤ 2099 ∧ (29 : Word).toNat ≤ 29 ∧
      (59 : Byte).toNat ≤ 59 ∧ ¬ (60 : Byte).toNat ≤ 59 ∧ ¬ (24 : Word).toNat ≤ 23 ∧ (2096 : Word).toNat % 4 = 0 := by
  unfold State.takes; decide +kernel

/-- The clock set, one second before a minute, a month or neither. -/
def clockAt (c : Calendar) : State := { base with clock := { base.clock with unset := false, calendar := c } }

theorem meets_SecondAdvance :
    let minute := clockAt ⟨2024, 3, 5, 1, 6, 29, 59⟩
    let month := clockAt ⟨2024, 2, 29, 3, 23, 59, 59⟩
    let v := minute.readNow minute.advanceDesks .clock timetableReads
    let m := month.readNow month.advanceDesks .clock timetableReads
    Memory.wf minute.mem = true ∧ minute.clock.stopped = false ∧ base.clock.unset = true ∧
      ({ base with clock := { base.clock with stopped := true } } : State).clock.stopped = true ∧
      minute.clock.calendar.advance.minute = true ∧ minute.clock.calendar.advance.month = false ∧
      month.clock.calendar.advance.month = true ∧ month.clock.unset = false ∧
      (∀ i, i < 32 → (v.timetableEntry i).matches minute.clock.calendar.advance.calendar = false) ∧
      (∀ i, i < 32 → (m.timetableEntry i).matches month.clock.calendar.advance.calendar = false) := by decide +kernel

theorem meets_SecondAdvance_quiet : (clockAt ⟨2024, 3, 5, 1, 6, 29, 59⟩).quietReads ∧ (clockAt ⟨2024, 2, 29, 3, 23, 59, 59⟩).quietReads :=
  ⟨quiet_of rfl rfl, quiet_of rfl rfl⟩

theorem meets_SecondAdvance_bus : (clockAt ⟨2024, 3, 5, 1, 6, 29, 59⟩).busQuiet := ⟨rfl, rfl⟩

/-- Timetable entry 31 at 06:30 of every day, with an action (section 11.6). -/
def timed (action : Word) : State :=
  (words (clockAt ⟨2024, 3, 5, 1, 6, 29, 59⟩) [(timetablePlace + 62, 0x1E067F01), (timetablePlace + 63, action)]).setJob 4
    (some (job1 .held [1] [waiter [.digit 1]]))

theorem meets_TimetableFires :
    let a := (timed 0x400).readNow (timed 0x400).advanceDesks .clock timetableReads
    let b := (timed 0x500).readNow (timed 0x500).advanceDesks .clock timetableReads
    Memory.wf (timed 0x400).mem = true ∧ (timed 0x400).clock.stopped = false ∧ (timed 0x400).clock.unset = false ∧
      (timed 0x400).clock.calendar.advance.minute = true ∧ (timed 0x400).clock.calendar.advance.month = false ∧
      (∀ k, k < 32 →
        (a.timetableEntry k).matches (timed 0x400).clock.calendar.advance.calendar = decide (k = 31)) ∧
      (a.timetableEntry 31).action = 0 ∧ (a.timetableEntry 31).arg = 4 ∧
      ((timed 0x400).job 4).map (·.state) = some .held ∧ (b.timetableEntry 31).arg = 5 ∧
      (timed 0x500).job 5 = none := by decide +kernel

theorem meets_TimetableFires_modes :
    let l := timed 0x00010101
    let m := timed 0x00000102
    let a := l.readNow l.advanceDesks .clock timetableReads
    let b := m.readNow m.advanceDesks .clock timetableReads
    (a.timetableEntry 31).action = 1 ∧ (a.timetableEntry 31).arg = lineCode .B ∧
      (a.timetableEntry 31).lineMode = LineMode.sendOnly.code ∧ l.fitted .B = true ∧
      (l.line .B).settings.mode ≠ .sendOnly ∧ oneLine.fitted .B = false ∧ (b.timetableEntry 31).action = 2 ∧
      (b.timetableEntry 31).arg = PrintMode.hold.code ∧ m.render.mode ≠ .hold ∧ m.render.queue = [] := by decide +kernel

/-- Log 23: RELEASE_JOB of job 200, which is none of the 16. -/
theorem meets_TimetableFires_beyond :
    let s := timed 0xC800
    let a := s.readNow s.advanceDesks .clock timetableReads
    (a.timetableEntry 31).action = 0 ∧ (a.timetableEntry 31).arg = 200 ∧ s.job 200 = none := by decide +kernel

theorem meets_TimetableFires_quiet : (timed 0x400).quietReads ∧ (timed 0x400).busQuiet := ⟨quiet_of rfl rfl, rfl, rfl⟩

/-- Entries 3, 5 and 9 at 06:30: LINE_MODE of line code 7, which is neither line, PRINT_MODE of 2, which is no mode, and
PRINT_MODE of HOLD. -/
def threeEntries : State :=
  words (clockAt ⟨2024, 3, 5, 1, 6, 29, 59⟩)
    [(timetablePlace + 6, 0x1E067F01), (timetablePlace + 7, 0x00000701), (timetablePlace + 10, 0x1E067F01),
      (timetablePlace + 11, 0x00000202), (timetablePlace + 18, 0x1E067F01), (timetablePlace + 19, 0x00000102)]

theorem meets_TimetableFiresInOrder :
    let s := threeEntries
    let a := s.readNow s.advanceDesks .clock timetableReads
    let entries := ((List.range 32).map fun i => (i, a.timetableEntry i)).filter fun p =>
      p.2.matches s.clock.calendar.advance.calendar
    Memory.wf s.mem = true ∧ s.clock.stopped = false ∧ s.clock.unset = false ∧ s.clock.calendar.advance.minute = true ∧
      s.clock.calendar.advance.month = false ∧
      entries.map (fun p => (p.1, p.2.action, p.2.arg)) = [(3, 1, 7), (5, 2, 2), (9, 2, 1)] ∧ s.render.queue = [] ∧
      (after .secondAdvance s).render.mode = .hold := by decide +kernel

theorem meets_TimetableFiresInOrder_quiet : threeEntries.quietReads ∧ threeEntries.busQuiet :=
  ⟨quiet_of rfl rfl, rfl, rfl⟩

/-- The last second of February 2024, with timetable entry 31 at 00:00 of every day: RELEASE_JOB of job 4, HELD and NORMAL,
whose desk is over its allowance. -/
def turning : State :=
  ((words (clockAt ⟨2024, 2, 29, 4, 23, 59, 59⟩)
      [(timetablePlace + 62, 0x00007F01), (timetablePlace + 63, 0x400)]).setJob 4
    (some (job1 .held [1] [waiter [.digit 1]]))).setDesk 4 { Desk.powerOn with allowance := 500, spent := 600, calls := 2 }

/-- Its one job is HELD, so nobody is eligible before the entry fires. -/
theorem turning_eligible {j i : Nat} {x : Job} {r : Recipient} : ¬ turning.eligible j i x r := by
  rintro ⟨hj, -, hs, -⟩
  have h : ∀ k : Fin 16, ((turning.job (k + 1)).map (·.state)).getD .held = .held := by decide +kernel
  have hr : j - 1 < 16 ∧ 1 ≤ j := by
    unfold State.job JobTable.get at hj
    split at hj
    · cases hj
    · rename_i h0
      refine ⟨Nat.lt_of_not_le fun hge => ?_, by omega⟩
      rw [Vector.getElem?_eq_none (by omega)] at hj
      cases hj
  have := h ⟨j - 1, hr.1⟩
  rw [show (j - 1) + 1 = j by omega, hj] at this
  rcases hs with hs | hs <;> simp [hs] at this

theorem meets_MonthTurns :
    let x := job1 .held [1] [waiter [.digit 1]]
    let entry := (turning.readNow turning.advanceDesks .clock timetableReads).timetableEntry
    Memory.wf turning.mem = true ∧ turning.clock.stopped = false ∧ turning.clock.unset = false ∧
      turning.clock.calendar.advance.month = true ∧ turning.job 4 = some x ∧ x.state = .held ∧ x.priority = .normal ∧
      (waiter [.digit 1]).state = .waiting ∧ (waiter [.digit 1]).nextTry ≤ turning.clock.uptime ∧ x.desk < 32 ∧
      (turning.desk x.desk).allowance ≠ 0 ∧ (turning.desk x.desk).allowance ≤ (turning.desk x.desk).spent ∧
      turning.dispatch.asked = none ∧ turning.lineFree .A ∧
      (∀ k, k < 32 → (entry k).matches turning.clock.calendar.advance.calendar = decide (k = 31)) ∧
      (entry 31).action = 0 ∧ (entry 31).arg = 4 := by
  unfold State.lineFree; decide +kernel

theorem meets_MonthTurns_quiet : turning.quietReads ∧ turning.busQuiet := 
  ⟨quiet_of rfl rfl, rfl, rfl⟩

/-- R166: the two orders of a month rollover. With the close first the recipient waits for a choice on the new month; with the
choice first it fails on the old one. The desk's month closes in both. -/
theorem test_monthTurn :
    let a := turning.readNow turning.advanceDesks .clock timetableReads
    let s : State := { a with clock := { a.clock with calendar := turning.clock.calendar.advance.calendar } }
    let shown (t : State) := ((t.job 4).map (·.state), (t.recipient 4 0).map (fun r => (r.state, r.lastCause)),
      (t.desk 4).spent, (t.desk 4).spentLast)
    shown s.closeThenFire = (some .ready, some (.waiting, none), 0, 600) ∧
      shown s.fireThenClose = (some .finished, some (.failed, some .deskLimit), 0, 600) := by decide +kernel

theorem meets_ClockEvents :
    let s (n : Nat) : State := { base with clock := { base.clock with uptime := n } }
    let stopped (n : Nat) : State := { base with clock := { base.clock with stopped := true, subSecond := n } }
    Memory.wf base.mem = true ∧ (s 2147483646).clock.uptime < 2147483647 ∧ 2147483647 ≤ (s 2147483647).clock.uptime ∧
      base.clock.stopped = false ∧ (after (.crystalStop 16384) base).clock.now = 5000000 + 500000 ∧
      (stopped 32766).clock.stopped = true ∧ (stopped 32766).clock.subSecond < 32767 := by
  decide +kernel

theorem meets_ClockReads :
    base.path.held = none ∧ base.portFree ∧ 1 ≤ base.path.straps.dramMiB ∧ base.clock.readOpen = false ∧
      ({ base with clock := { base.clock with readOpen := true, moved := true } } : State).clock.moved = true := by
  unfold State.portFree State.portFreeAt; decide +kernel

/-! ## Witnesses: chapter 10 and the host reset -/

theorem meets_ReportsAndAttn :
    base.takes ∧ 2 < (3 : Word).toNat ∧ (2 : Word).toNat = AttnMode.pulse.code ∧ base.report.unconsumed = 1 ∧
      ({ base with report := { base.report with mode := .pulse, pulse := some 20 } } : State).report.attn = true ∧
      Memory.wf base.mem = true ∧ base.path.held = none ∧ base.portFree ∧ 1 ≤ base.path.straps.dramMiB := by
  unfold State.takes State.portFree State.portFreeAt; decide +kernel

theorem meets_Guard :
    let g (taken expired : Bool) : State := { onA .connected with guard := { base.guard with
      enable := true, period := some 60, taken := taken, expired := expired, expected := 2, deadline := some 600000000 } }
    (g false false).takes ∧ (g false false).guard.taken = false ∧ (g true false).guard.taken = true ∧
      (g true true).guard.expired = true ∧ (g true false).guard.expired = false ∧ Memory.wf (g true false).mem = true ∧
      (2 : Word).toNat = (g true false).guard.expected ∧ (1 : Word).toNat ≠ (g true false).guard.expected ∧
      (g true false).portFree ∧ (g true false).guard.deadline = some 600000000 ∧ ((g true false).line .A).hook = true ∧
      ((g true false).line .A).direction = some .outgoing ∧ ((g true false).line .B).hook = false ∧
      (g true false).report.mask.getLsbD ReportKind.guardExpired.cls = true ∧ (g true false).report.unconsumed < 58 ∧
      ((g true false).line .A).hook.toNat + ((g true false).line .B).hook.toNat = 1 ∧
      (base.line .A).hook.toNat + (base.line .B).hook.toNat = 0 := by
  unfold State.takes State.portFree State.portFreeAt; decide +kernel

/-- Both lines off-hook, and the expiry taken after the call end of the only off-hook line. -/
def guarded : State :=
  let s := (onA .connected).setLine .B { (onA .connected).line .A with direction := some .incoming }
  { s with guard := { base.guard with enable := true, period := some 60, taken := true, deadline := some 600000000 } }

theorem meets_GuardExpiry_both :
    (guarded.line .A).hook.toNat + (guarded.line .B).hook.toNat = 2 ∧ guarded.guard.deadline = some 600000000 ∧
      Memory.wf guarded.mem = true := by decide +kernel

/-- R105: a CONNECTED receiving call with page 1 FILLING, alone and beside another, which is hung up or whose guard expires. -/
def receivingCall : State :=
  let s := (receives .receiving id).setLine .A { LineUnit.powerOn true with state := .connected, direction := some .incoming }
  { s with guard := { base.guard with enable := true, period := some 60, taken := true, deadline := some 600000000 } }

theorem meets_HangUp_receiving :
    receivingCall.takes ∧ receivingCall.names 0 .A ∧ (receivingCall.line .A).hook = true ∧
      (receivingCall.line .A).state = .connected ∧ (receivingCall.session .A).role = .receiver ∧
      (receivingCall.line .A).direction = some .incoming ∧ (receivingCall.session .A).page ≠ 0 ∧ receivingCall.page 1 ≠ none ∧
      (after (.hangUp 7 0) receivingCall).page 1 = none := by
  unfold State.takes State.names; decide +kernel

theorem meets_GuardExpiry_receiving :
    let two := (receivingCall.setLine .B (receivingCall.line .A)).setSession .B
      { Session.powerOn with role := .receiver, state := .waitHead, negotiated := 3 }
    Memory.wf receivingCall.mem = true ∧ receivingCall.guard.deadline = some 600000000 ∧
      (receivingCall.line .B).hook = false ∧ (two.line .B).state = .connected ∧ (two.session .B).role = .receiver ∧
      (two.line .B).direction = some .incoming ∧ (two.session .B).page = 0 ∧ (after .guardExpiry receivingCall).page 1 = none ∧
      (after .guardExpiry two).report.producer = receivingCall.report.producer + 3 := by decide +kernel

/-- R128: an off-hook outgoing call that serves a recipient when the guard expires. -/
theorem meets_GuardExpiry_serving :
    let s := calling .progress call1 0 0
    let g : State := { s with guard := { s.guard with enable := true, period := some 60, deadline := some 600000000 } }
    (g.line .A).hook = true ∧ (g.line .A).direction = some .outgoing ∧ onLine.state = .onLine ∧
      g.servesFor .A 2 0 (job1 .active [1] [onLine]) onLine ∧ g.dispatch.serving.get (Line.other .A) ≠ some (2, 0) ∧
      ((after .guardExpiry g).recipient 2 0).map (fun r => (r.state, r.attempts, r.lastCause)) = some (.waiting, 0, some .guard) := by
  unfold State.servesFor; decide +kernel

/-- R81: the flag is set by the expiry also when the call has ended first, at the instant of the expiry. -/
theorem test_guardAfterEnd :
    let s : State := { guarded.setLine .B (base.line .B) with clock := { guarded.clock with now := 600000000 } }
    let t := after (.carrierLost .A) s
    (t.line .A).state = .recovery ∧ t.guard.deadline = some 600000000 ∧ (after .guardExpiry t).guard.expired = true := by
  decide +kernel

/-- R175, R82, R22, R59, R133: requests of the engines, off-hook calls, pages of both kinds, a queue in RUN, a recipient that
serves. -/
theorem meets_HostReset :
    let s := calling .connected call1 0 0
    Memory.wf s.mem = true ∧ (s.line .A).hook = true ∧ (s.line .A).direction = some .outgoing ∧ (base.line .B).hook = false ∧
      s.servesFor .A 2 0 (job1 .active [1] [onLine]) onLine ∧ s.dispatch.serving.get .B ≠ some (2, 0) ∧ onLine.state = .onLine ∧
      ((sender (sends .block)).line .A).state = .connected ∧ ((sender (sends .block)).session .A).role ≠ .none ∧
      ((asks 17 16).page 1).map (·.complete) = some false ∧ base.path.atPort = none ∧
      (heldRead base).path.held = some ⟨.read 0x80000 15, 0⟩ ∧
      ((held1 false false true).page 1).map (fun p => (p.complete, p.keepHold)) = some (true, true) ∧
      ((held1 true false false).page 1).map (fun p => (p.complete, p.sendHold)) = some (true, true) ∧
      (∀ l, ((held1 true false false).line l).hook = false) ∧ (printing .run true [1]).render.mode = .run ∧
      (printing .run true [1]).render.queue = 1 :: [] ∧
      ((printing .run true [1]).page 1).map (fun p => (p.complete, p.printHold, decide (0 < p.lineCount))) = some (true, true, true) ∧
      (printing .hold false [1]).render.mode = .hold := by
  unfold State.servesFor
  refine ⟨?_, ?_, ?_, ?_, ?_, ?_, ?_, ?_, ?_, ?_, ?_, ?_, ?_, ?_, fun l => by cases l <;> decide +kernel, ?_⟩ <;> decide +kernel

/-- R175, R184: the host reset drops the entry read at the head of the list, and keeps the request the poster has made for it. -/
theorem test_hostResetKeepsRequest :
    let asking : State := { entryAtHead 5 with path := { (entryAtHead 5).path with
      headHanded := false, requests := { Requests.none with poster := some 30 } } }
    let s : State := { asking with clock := { asking.clock with now := 35 } }
    let t := after .hostReset s
    s.path.headHanded = false ∧ s.path.requests.poster = some 30 ∧ t.path.requests.poster = some 30 ∧
      t.path.postings.contains (.read 8 8 .command) = false ∧ t.path.postings ≠ [] := by decide +kernel

/-- The rows that end an outgoing call, each in its state, with the recipient that line A serves: the last of its job with one
page, confirmed and not; given back; tried again and at its last attempt. -/
theorem meets_RecipientSettled :
    let s (st : CallState) := calling st call1 0 0
    let r (n a : Nat) : Recipient := { onLine with pagesConfirmed := n, attempts := a }
    let x := job1 .active [1] [onLine]
    Memory.wf (s .progress).mem = true ∧ ((s .progress).line .A).direction = some .outgoing ∧
      ((s .progress).session .A).role ≠ .receiver ∧ (s .progress).servesFor .A 2 0 x onLine ∧
      ((s .progress).line .A).state = .progress ∧ ((s .seized).line .A).state = .seized ∧
      ((((s .seized).line .A).seizeSettings).map (·.blind)).getD false = false ∧ ((s .connected).line .A).state = .connected ∧
      (cancelled .progress Session.powerOn).dispatch.cancelSent.get .A = true ∧
      ((sender (sends .headSent)).session .A).role = .sender ∧ ((sender (sends .headSent)).session .A).state ≠ .clearing ∧
      ((s .connected).takes ∧ (s .connected).names 0 .A ∧ ((s .connected).line .A).hook = true) ∧
      ((r 1 1).afterCall x .carrierLost 0 9).state = .done ∧ ((r 0 1).afterCall x .guard 0 9).attempts = 0 ∧
      ((r 0 2).afterCall x .busy 0 9).nextTry = 129 ∧ ((r 0 3).afterCall x .busy 0 9).state = .failed ∧
      ({ x with recipients := [r 0 3] } : Job).recipients.length = 1 ∧
      ((lineA (s .progress) fun u => { u with busyRun := 2, ringbacks := 9 }).line .A).busyRun = 2 ∧
      (s .seized).fitted .A = true ∧ ((s .dialling).line .A).firstEnded = false := by
  unfold State.servesFor State.takes State.names; decide +kernel

/-- R128: a busy call at attempts 1 of 3 waits 2 minutes; at the third it fails, and its job finishes. -/
theorem test_recipientSettled :
    let s (n : Nat) := lineA ((calling .progress call1 0 0).setJob 2 (some (job1 .active [1] [{ onLine with attempts := n }])))
      fun u => { u with busyRun := 2 }
    ((after (.toneCycleEnd .A 500 500) (s 1)).recipient 2 0).map (fun r => (r.state, r.nextTry)) = some (.waiting, 120) ∧
      ((after (.toneCycleEnd .A 500 500) (s 3)).job 2).map (fun x => (x.state, x.failed)) = some (.finished, 1) := by
  decide +kernel

/-- R121, R194: the recipient records that DELETE_JOB clears are shown as 0. -/
theorem test_deleteJob :
    let s := withJob .finished [1] [waiter [.digit 5]]
    let t := after (.deleteJob 3 1) { s with mem := Memory.writeWord [] (s.path.straps.controlBase + recipientRecordPlace 1 0) 7 }
    t.settledAt (recipientRecordPlace 1 0) = 0 ∧ t.job 1 = none := by decide +kernel

/-- R184, section 11.1: the bytes of the 16 command entries, FF0100h to FF02FFh with 16 MiB, are not written by a power-on;
the control area around them is. -/
theorem test_powerOnKeepsEntries :
    [0xFEFFFF, 0xFF0000, 0xFF00FF, 0xFF0100, 0xFF02FF, 0xFF0300, 0xFFFFFF, 0x1000000].map
        (Straps.mk 16 2 false).writesAtPowerOn = [false, true, true, false, false, true, true, false] := by decide +kernel

/-! ## Witnesses: room in the list

The witnesses above hold an empty posting list, so that the event of every row finds room; here each row with its state. -/

theorem fits_of {l : List (Instr × State)} (h : (l.all fun p => p.2.path.items.isEmpty) = true) : ∀ p ∈ l, p.2.fits p.1 :=
  fun p m => State.findsRoom_of_items (List.isEmpty_iff.1 (List.all_eq_true.1 h p m)) _

/-- The entry at the head of a list of one item: the item leaves, and the command's postings find room. -/
theorem meets_fits_entry : (entryAtHead 5).fits .postingWrite := by unfold State.fits; decide +kernel

theorem meets_fits_commands : ∀ p ∈ ([
      (.postingWrite, entryRead 5), (.releasePage 0 0, entryRead 5), (.closeCapture 1, withdrawn),
      (.unknownCommandKind 29 1, producedAgain), (.unknownCommandKind 0 7, base), (.commandProducerWrite 15 31, base),
      (.commandReadDiscarded, withdrawn), (.hostWrite 0x100A00 15 5, base), (.renderSlotRead 0 15, base),
      (.setAttn 7 2 255, base), (.reportConsumerWrite 15 1, base), (.enableGuard 7 60, onA .connected),
      (.clearGuardFlag 7, onA .connected), (.guardKick 15 1, onA .connected), (.guardExpiry, guarded),
      (.guardExpiry, receivingCall), (.hostReset, calling .connected call1 0 0), (.hostReset, asks 17 16)] : List (Instr × State)),
    p.2.fits p.1 := fits_of (by decide +kernel)

theorem meets_fits_capture : ∀ p ∈ ([
      (.keepPage 7 1, held1 true false false), (.releasePage 7 1, held1 false false true), (.setReserve 7 255, base),
      (.setRegions 7 0 65536 0x100000 0x200000 8, bare), (.captureAllocation, asks 17 16), (.captureAllocation, endWaits 17),
      (.captureAllocation, asks 16 16), (.captureAllocation, closesFull), (.captureAllocation, asksHeld),
      (.receiveAllocation .A, waitsFor 8 [(0, [7])] []), (.receiveAllocation .A, waitsFor 7 [(0, [7])] [63]),
      (.openCapture 7 2 0 1024, base), (.closeCapture 7, endLeft 1), (.closeCapture 7, asks 17 16), (.abortCapture 7, heldWrite),
      (.closeCaptureComplete, closes .store 2), (.closeCaptureComplete, closes .store 0), (.closeCaptureComplete, closes .copy 2),
      (.captureWindowWrite 31 15 0, slots4), (.captureHoldExpiry, heldWrite), (.lineTake, slots4), (.lineTake, heldWrite)] :
      List (Instr × State)),
    p.2.fits p.1 := fits_of (by decide +kernel)

theorem meets_fits_printing : ∀ p ∈ ([
      (.printPage 7 1, held1 false false false), (.printPage 7 1, withPage base page5), (.endPrint 7, twoPages),
      (.endPrint 7, heldRead twoPages), (.setPrintMode 7 0, printing .hold false [1]), (.setRenderWidth 7 1024, base),
      (.renderLineDecoded, printing .run true [1]), (.renderSlotRead 383 15, lastLine), (.renderSlotRead 383 15, twoPages),
      (.renderHoldExpiry, heldRead (printing .run true [1])), (.renderHoldExpiry, lastHeld)] : List (Instr × State)),
    p.2.fits p.1 := fits_of (by decide +kernel)

theorem meets_fits_lines : ∀ p ∈ ([
      (.setLineMode 7 0 1, base), (.setRings 7 1 3, base), (.setLineOptions 7 0 1 0 0 4, base), (.hangUp 7 0, onA .connected),
      (.hangUp 7 0, receivingCall), (.ringBurst ⟨.A, 200⟩, base), (.ringBurst ⟨.A, 200⟩, glare 1), (.ringGapTimeout .A, onA .ringing),
      (.recoveryEnd .A, onA .recovery), (.answerToneEnd .A, onA .answering), (.dialToneRecognised .A, onA .seized),
      (.dialToneRecognised .A, phaseA .waitTone), (.blindDialDelayEnd .A, blindA .seized), (.dtmfStrobeEnd .A, phaseA (.strobe (.digit 3))),
      (.dialBreakEnd .A, phaseA (.brk 9)), (.symbolEnd .A, phaseA .gap), (.interDigitMakeEnd .A, phaseA .interDigit),
      (.toneCycleEnd .A 500 500, onA .progress), (.dialToneTimeout .A, onA .seized), (.progressTimeout .A, onA .progress),
      (.faultTone .A, onA .progress), (.carrierLost .A, onA .connected), (.lineCancel .A, cancelled .progress Session.powerOn),
      (.toneCycleEnd .A 500 500, calling .progress call1 0 0)] : List (Instr × State)),
    p.2.fits p.1 := fits_of (by decide +kernel)

theorem meets_fits_sessions : ∀ p ∈ ([
      (.identReceived .A [] 4 true, sender (sends .waitIdent)), (.readyReceived .A, trains .setupSent 4 0 none),
      (.readyReceived .A, trains .burstSent 4 0 none), (.retryReceived .A, trains .burstSent 4 0 none),
      (.trainingBurstSent .A, sender { sends .burst with sending := [.burst 4] }), (.readyReceived .A, sender (sends .headSent)),
      (.blockOkReceived .A 0, sender (sends .blockEndSent)), (.gapsReceived .A 0 [0, 63], sender (sends .blockEndSent)),
      (.storeFullReceived .A, sender (sends .headSent)), (.pageOkReceived .A, sender (sends .pageEndSent)),
      (.frameSent .A, sender { sends .block with sending := [.frame (.data 0 5 []) 2] }),
      (.responseTimeout .A, sender { sends .burstSent with sendings := 2, responseTimer := some 9 }),
      (.identTimeout .A, sender { sends .waitIdent with identTimer := some 9 }),
      (.identRepeat .A, receives .identSent fun x => { x with identTimer := some 9 }),
      (.idleTimeout .A, receives .waitHead fun x => { x with idleTimer := some 9 }), (.setupReceived .A [] 4, receives .identSent id),
      (.trainingBurstReceived .A 19200 19, receives .waitBurst id), (.pageHeadReceived .A 1 1728 100 30000, receives .waitHead id),
      (.pageHeadReceived .A 1 1728 100 30000, refusedPage), (.blockEndReceived .A 0 64, receives .receiving id),
      (.blockDataDrained .A, receives .receiving fun x => { x with drain := .block }), (.pageEndReceived .A true, receives .receiving id),
      (.pageEndReceived .A true, refusedPage), (.pageEndReceived .A true, emptyPage),
      (.pageDataDrained .A, receives .receiving fun x => { x with drain := .page true }),
      (.clearSent .A, sender { sends .clearing with endCause := some .completed, sending := [.frame (.clear 1) 2] }),
      (.clearReceived .A 1, sender (sends .headSent)), (.carrierLost .A, sender (sends .headSent))] : List (Instr × State)),
    p.2.fits p.1 := fits_of (by decide +kernel)

theorem meets_fits_jobs : ∀ p ∈ ([
      (.setStationId 7 0 0 0 0 0, base), (.createJob 7 31 1 0 3 2, base), (.addRecipient 7 1 0xF1 0 0 0, withJob .assembling [] []),
      (.submitJob 7 1, withJob .assembling [1] [waiter [.digit 1]]), (.releaseJob 7 1, withJob .held [] []),
      (.deleteJob 7 1, withJob .finished [] []), (.cancelJob 7 1, withJob .ready [1] [waiter [.digit 1]]),
      (.cancelJob 7 1, capturingJob []), (.cancelJob 7 1, capturingJob [onLine]), (.cancelJob 7 1, servedTwice),
      (.cancelRecipient 7 1 0, served .dialling Session.powerOn), (.cancelRecipient 7 1 0, askedA), (.cancelJob 7 1, askedA),
      (.cancelRecipient 7 1 0, askedBusy)] : List (Instr × State)),
    p.2.fits p.1 := fits_of (by decide +kernel)

theorem meets_fits_charges : ∀ p ∈ ([
      (.answerDetected .A, calling .progress { call1 with metered := true } 0 0), (.meterPulse .A 40, calling .connected call1 0 0),
      (.deskFieldWrite 4 true 15 499, calling .connected call1 500 400), (.hostWrite 0xFF7400 15 1, lockedTariff false),
      (.lockTariff 7, base), (.callLogConsumerWrite 15 1, base), (.setClock 7 2024 2 29 6 30 0, base), (.secondAdvance, base),
      (.uptimeAdvance, base), (.crystalStop 16384, base),
      (.crystalRun, { base with clock := { base.clock with stopped := true, subSecond := 32767 } })] : List (Instr × State)),
    p.2.fits p.1 := fits_of (by decide +kernel)

end Sys2Proof.Tests
end

section
/-! PROOF. The words of the bus do not stay in order: a command entry that arrives while an event waits for room in the list
is taken at the end of that row (`State.event`, log 9), and no `State.resumeBus` follows it, so a command that releases a held
word leaves the words behind it waiting behind nothing. -/

namespace Sys2Proof.Machine

/-- The straps of a part with 16 MiB and two lines. -/
def fullListStraps : Straps := Straps.latch 2 true false

/-- A ring burst comes while the posting list is full: behind the read of a command entry stand words of page records. DRAM
holds kind 3, ABORT_CAPTURE, in that entry. The coder is OPEN with line 0 PENDING and read whole; a write of its slot is held, and a write of
plain DRAM waits behind it. -/
def abortArrivesInWait : State :=
  let s := State.powerOnRegisters fullListStraps
  let entry := fullListStraps.controlBase + entryPlace 0
  { s with
    mem := [(4 * entry, 3)]
    path := { s.path with
      regions := some ⟨0, 65536, 0x100000, 0x200000⟩
      held := some ⟨.write 0x40000 15 5, 0⟩
      stalled := [.write 0x20000 15 5]
      postings := .read entry 8 .command ::
        (List.range 127).map fun i => .write (fullListStraps.controlBase + pagePlace 1 + i) 0 }
    store := { s.store with
      total := 32, free := List.range 32
      pages := s.store.pages.put 7 (some (Page.filling .scan .store 0 1024)) }
    coder := { s.coder with
      state := .opened, page := 7, purpose := some .store, width := some 1024, reference := whiteLine 1024
      slots := s.coder.slots.set 0 (.pending 0), got := 128 }
    command := { s.command with producer := 1, readAsked := true }
    pending := [.ringBurst ⟨.A, 200⟩] }

theorem abortArrivesInWait_busInOrder : abortArrivesInWait.busInOrder := fun held => by cases held

/-- The held word is a write of a PENDING slot: it is held by its condition (R174). -/
theorem abortArrivesInWait_heldMeets : abortArrivesInWait.heldMeets := by
  intro h held
  cases held
  decide +kernel

/-- The burst waits for room, the entry arrives in the wait, and ABORT_CAPTURE is taken after the burst: the held write has
passed, and the write behind it still waits. -/
theorem abortArrivesInWait_step :
    ∃ t, step abortArrivesInWait = .next t ∧ t.coder.state = .idle ∧ t.path.held = none ∧ t.path.atPort = none ∧
      t.path.stalled = [.write 0x20000 15 5] := by
  refine ⟨_, rfl, ?_⟩
  decide +kernel

theorem not_busStaysInOrder : ¬ Sys2Proof.Claim.BusStaysInOrder := by
  intro keeps
  obtain ⟨t, stepped, _, held, atPort, stalled⟩ := abortArrivesInWait_step
  have none_left : t.path.stalled = [] := keeps _ t abortArrivesInWait_busInOrder stepped held atPort
  rw [stalled] at none_left
  cases none_left

/-- Refutes O52: an ABORT_CAPTURE that arrives while a ring burst waits for room in the posting list releases the held write
at the end of the row, and the bus word behind it is left waiting with no word held and none at the port. -/
theorem not_pathInOrder : ¬ Obligations.PathInOrder := fun h => not_busStaysInOrder h.1

end Sys2Proof.Machine
end

section
/-! PROOF. The band code: what each reader of chapter 2 gives where the code that it reads stands, and that packing bits into
bytes loses none. A code stands at bit `pos` of `bits` when `bits.drop pos` begins with it. -/

namespace Sys2Proof.Machine

/-! ## Code at a position -/

theorem getElem?_of_drop {α : Type} {bits rest : List α} {pos : Nat} {b : α} (h : bits.drop pos = b :: rest) :
    bits[pos]? = some b := by
  have e : (bits.drop pos)[0]? = bits[pos]? := by simp
  rw [← e, h]; rfl

theorem drop_of_drop {α : Type} {bits code rest : List α} {pos : Nat} (h : bits.drop pos = code ++ rest) :
    bits.drop (pos + code.length) = rest := by
  rw [← List.drop_drop, h, List.drop_left]

theorem drop_succ_of_drop {α : Type} {bits rest : List α} {pos : Nat} {b : α} (h : bits.drop pos = b :: rest) :
    bits.drop (pos + 1) = rest := drop_of_drop (code := [b]) h

/-! ## The G code (R38, R40) -/

/-- The binary digits of a positive number begin with a one, and the digits after it double and add up to the number. -/
theorem binaryDigits_spec : ∀ fuel v : Nat, 0 < v → v ≤ fuel →
    ∃ low, binaryDigits fuel v = true :: low ∧ low.foldl (fun n b => 2 * n + b.toNat) 1 = v ∧ 2 ^ low.length ≤ v
  | 0, v, hv, hf => by omega
  | fuel + 1, v, hv, hf => by
    rw [binaryDigits, if_neg (by omega)]
    by_cases one : v = 1
    · subst one
      exact ⟨[], by cases fuel <;> simp [binaryDigits], rfl, by simp⟩
    · obtain ⟨low, digits, value, size⟩ := binaryDigits_spec fuel (v / 2) (by omega) (by omega)
      refine ⟨low ++ [decide (v % 2 = 1)], by rw [digits, List.cons_append], ?_, ?_⟩
      · rw [List.foldl_append, value, List.foldl_cons, List.foldl_nil]
        rcases Nat.mod_two_eq_zero_or_one v with h | h <;> simp [h] <;> omega
      · rw [List.length_append, List.length_singleton, Nat.pow_succ]
        omega

/-- The form of a G code: as many zero bits as there are digits below the leading one. -/
theorem gCode_eq (v : Nat) : ∃ low : List Bool, gCode v = List.replicate low.length false ++ true :: low ∧
    low.foldl (fun n b => 2 * n + b.toNat) 1 = v + 1 ∧ 2 ^ low.length ≤ v + 1 := by
  obtain ⟨low, digits, value, size⟩ := binaryDigits_spec (v + 1) (v + 1) (by omega) (by omega)
  exact ⟨low, by simp [gCode, digits], value, size⟩

theorem readZeros_replicate {bits rest : List Bool} : ∀ (n fuel z pos : Nat), n < fuel →
    bits.drop pos = List.replicate n false ++ true :: rest →
    readZeros (fun i => bits[i]?) fuel z pos = some (z + n, pos + n + 1)
  | 0, fuel + 1, z, pos, _, h => by
    have head : bits[pos]? = some true := getElem?_of_drop h
    simp [readZeros, head]
  | n + 1, fuel + 1, z, pos, hf, h => by
    rw [List.replicate_succ, List.cons_append] at h
    have head : bits[pos]? = some false := getElem?_of_drop h
    simp only [readZeros, head]
    rw [readZeros_replicate n fuel (z + 1) (pos + 1) (by omega) (drop_succ_of_drop h)]
    simp only [Option.some.injEq, Prod.mk.injEq]
    omega

theorem readNumber_digits {bits rest : List Bool} : ∀ (digits : List Bool) (pos acc : Nat), bits.drop pos = digits ++ rest →
    readNumber (fun i => bits[i]?) digits.length pos acc = some (digits.foldl (fun n b => 2 * n + b.toNat) acc)
  | [], _, _, _ => rfl
  | b :: digits, pos, acc, h => by
    have head : bits[pos]? = some b := getElem?_of_drop h
    simp only [List.length_cons, readNumber, head, List.foldl_cons]
    exact readNumber_digits digits (pos + 1) _ (drop_succ_of_drop h)

/-- R40: a G code of at most 11 leading zero bits reads back as its value. -/
theorem readG_gCode {bits rest : List Bool} {pos v : Nat} (bound : v < 4095) (h : bits.drop pos = gCode v ++ rest) :
    readG (fun i => bits[i]?) pos = some (v, pos + (gCode v).length) := by
  obtain ⟨low, form, value, size⟩ := gCode_eq v
  have short : low.length < 12 := (Nat.pow_lt_pow_iff_right (a := 2) (by omega)).mp (by omega)
  rw [form, List.append_assoc, List.cons_append] at h
  have zeros := readZeros_replicate low.length 12 0 pos short h
  have after : bits.drop (pos + low.length + 1) = low ++ rest := by
    have k := drop_of_drop (code := List.replicate low.length false ++ [true]) (rest := low ++ rest) (by simpa using h)
    simpa [Nat.add_assoc] using k
  have number := readNumber_digits low _ 1 after
  rw [value] at number
  simp only [readG, zeros, Nat.zero_add, number, form, Option.map_some, Nat.add_sub_cancel, Option.some.injEq, Prod.mk.injEq,
    List.length_append, List.length_replicate, List.length_cons, true_and]
  omega

/-! ## The runs of a line (R38, R41) -/

/-- The code of runs of which the first may be 0; where `first` is not set it is a run like the later ones. -/
def codeOfRuns (first : Bool) : List Nat → List Bool
  | [] => []
  | run :: later => gCode (if first then run else run - 1) ++ later.flatMap fun b => gCode (b - 1)

theorem runCode_eq (line : List Bool) : runCode line = codeOfRuns true (runsFrom false 0 line) := by
  unfold runCode codeOfRuns
  cases runsFrom false 0 line <;> rfl

/-- Later runs are coded like a first one that is not 0. -/
theorem codeOfRuns_cons (first : Bool) (run : Nat) (later : List Nat) :
    codeOfRuns first (run :: later) = gCode (if first then run else run - 1) ++ codeOfRuns false later := by
  cases later <;> simp [codeOfRuns]

/-- R41: the runs of what is left of a line read back as it, `count` pixels of the run in hand having been counted. -/
theorem readRuns_runsFrom {bits : List Bool} {w : Nat} (bound : w ≤ 2560) :
    ∀ (left : List Bool) (colour first : Bool) (count fuel pos : Nat) (acc rest : List Bool), left.length < fuel →
    acc.length + count + left.length = w → (first = false → 0 < count) →
    bits.drop pos = codeOfRuns first (runsFrom colour count left) ++ rest →
    readRuns (fun i => bits[i]?) w fuel first colour acc pos =
      { line := acc ++ List.replicate count colour ++ left, pos := pos + (codeOfRuns first (runsFrom colour count left)).length,
        stopped := false, damaged := false }
  | [], colour, first, count, fuel + 1, pos, acc, rest, _, size, later, h => by
    simp only [runsFrom, codeOfRuns, List.flatMap_nil, List.append_nil] at h ⊢
    have len : acc.length + count = w := by simpa using size
    have g := readG_gCode (v := if first then count else count - 1) (by split <;> omega) h
    have run : (if first then (if first then count else count - 1) else (if first then count else count - 1) + 1) = count := by
      cases first
      · have := later rfl
        simp only [Bool.false_eq_true, if_false]; omega
      · simp
    simp only [readRuns, g, run, List.length_append, List.length_replicate, len, lt_irrefl, if_false, decide_false]
    rw [List.take_of_length_le (by simp [len])]
  | p :: left, colour, first, count, fuel + 1, pos, acc, rest, hf, size, later, h => by
    simp only [List.length_cons] at hf size
    by_cases same : p = colour
    · subst same
      simp only [runsFrom, if_true] at h ⊢
      rw [readRuns_runsFrom bound left p first (count + 1) (fuel + 1) pos acc rest (by omega) (by omega) (by omega) h]
      simp [List.replicate_succ']
    · simp only [runsFrom, if_neg same] at h ⊢
      simp only [codeOfRuns_cons, List.append_assoc] at h ⊢
      have g := readG_gCode (v := if first then count else count - 1) (by split <;> omega) h
      have run : (if first then (if first then count else count - 1) else (if first then count else count - 1) + 1) = count := by
        cases first
        · have := later rfl
          simp only [Bool.false_eq_true, if_false]; omega
        · simp
      have more : (acc ++ List.replicate count colour).length < w := by simp; omega
      have turned : (!colour) = p := by cases p <;> cases colour <;> simp_all
      simp only [readRuns, g, run, more, if_true, turned]
      rw [readRuns_runsFrom bound left p false 1 fuel _ (acc ++ List.replicate count colour) rest (by omega) (by simp; omega)
        (by simp) (drop_of_drop h)]
      simp [Nat.add_assoc]

/-! ## A line (R37, R40) -/

theorem readPixels_eq {bits rest : List Bool} : ∀ (line : List Bool) (pos : Nat), bits.drop pos = line ++ rest →
    readPixels (fun i => bits[i]?) line.length pos = some line
  | [], _, _ => rfl
  | b :: line, pos, h => by
    have head : bits[pos]? = some b := getElem?_of_drop h
    simp only [List.length_cons, readPixels, head, readPixels_eq line (pos + 1) (drop_succ_of_drop h), Option.map_some]

theorem whiteLine_eq {line : List Bool} (h : line.all (· == false) = true) : whiteLine line.length = line := by
  symm
  simpa [whiteLine, List.eq_replicate_iff] using h

/-- R37 to R41: each of the four tokens reads back as the line that it was chosen for. -/
theorem bandCodeRoundTrip_claim : Sys2Proof.Claim.BandCodeRoundTrip := by
  rintro w reference line rest - bound - rfl
  unfold lineToken
  split
  case isTrue blank => simp [readLine, whiteLine_eq blank]
  case isFalse =>
    split
    case isTrue same => simp [readLine, same]
    case isFalse =>
      split
      case isTrue =>
        have runs := readRuns_runsFrom (bits := [true, false] ++ runCode line ++ rest) bound line false true 0 (line.length + 2) 2
          [] rest (by omega) (by simp) (by simp) (by simp [← runCode_eq])
        rw [← runCode_eq] at runs
        simp only [List.cons_append, List.nil_append] at runs
        simp [readLine, runs]
        omega
      case isFalse =>
        have raw := readPixels_eq (bits := [true, true, false] ++ line ++ rest) (rest := rest) line 3 (by simp)
        simp only [List.cons_append, List.nil_append] at raw
        simp [readLine, raw]
        omega

/-! ## Bits in bytes (R39) -/

theorem exists_eight {bits : List Bool} (h : 8 ≤ bits.length) :
    ∃ b0 b1 b2 b3 b4 b5 b6 b7 rest, bits = b0 :: b1 :: b2 :: b3 :: b4 :: b5 :: b6 :: b7 :: rest := by
  match bits, h with
  | b0 :: b1 :: b2 :: b3 :: b4 :: b5 :: b6 :: b7 :: rest, _ => exact ⟨b0, b1, b2, b3, b4, b5, b6, b7, rest, rfl⟩

/-- Eight bits make the byte that has them, the first as bit 7. -/
theorem bitsOfByte_ofBits : ∀ b0 b1 b2 b3 b4 b5 b6 b7 : Bool,
    bitsOfByte (BitVec.ofNat 8 (natOfBits [b0, b1, b2, b3, b4, b5, b6, b7])) = [b0, b1, b2, b3, b4, b5, b6, b7] := by
  decide

theorem bitsOfByte_take {bits : List Bool} (h : 8 ≤ bits.length) :
    bitsOfByte (BitVec.ofNat 8 (natOfBits (bits.take 8))) = bits.take 8 := by
  obtain ⟨b0, b1, b2, b3, b4, b5, b6, b7, rest, rfl⟩ := exists_eight h
  exact bitsOfByte_ofBits b0 b1 b2 b3 b4 b5 b6 b7

/-- Bit `j` of the eight is bit 7 − j of the byte. -/
theorem bitsOfByte_getElem? (b : Byte) {j : Nat} (h : j < 8) : (bitsOfByte b)[j]? = some (b.getLsbD (7 - j)) := by
  interval_cases j <;> rfl

theorem splitBytesFuel_joined : ∀ (fuel : Nat) (bits : List Bool),
    (splitBytesFuel fuel bits).1.flatMap bitsOfByte ++ (splitBytesFuel fuel bits).2 = bits
  | 0, bits => rfl
  | fuel + 1, bits => by
    unfold splitBytesFuel
    split
    · rfl
    · have ih := splitBytesFuel_joined fuel (bits.drop 8)
      rw [List.flatMap_cons, bitsOfByte_take (by omega), List.append_assoc, ih, List.take_append_drop]

theorem splitBytesFuel_left : ∀ (fuel : Nat) (bits : List Bool), bits.length < 8 * fuel + 8 →
    (splitBytesFuel fuel bits).2.length < 8
  | 0, bits, h => h
  | fuel + 1, bits, h => by
    unfold splitBytesFuel
    split
    · assumption
    · exact splitBytesFuel_left fuel (bits.drop 8) (by rw [List.length_drop]; omega)

theorem splitBytesFuel_bit : ∀ (fuel : Nat) (bits : List Bool) (i : Nat), 8 * fuel ≤ bits.length → i / 8 < fuel →
    some (((splitBytesFuel fuel bits).1.getD (i / 8) 0).getLsbD (7 - i % 8)) = bits[i]?
  | 0, _, _, _, h => by omega
  | fuel + 1, bits, i, size, hi => by
    unfold splitBytesFuel
    rw [if_neg (by omega)]
    dsimp only
    by_cases small : i < 8
    · have at_zero : i / 8 = 0 := by omega
      rw [at_zero, List.getD_cons_zero, Nat.mod_eq_of_lt small, ← bitsOfByte_getElem? _ small, bitsOfByte_take (by omega),
        List.getElem?_take_of_lt small]
    · have ih := splitBytesFuel_bit fuel (bits.drop 8) (i - 8) (by rw [List.length_drop]; omega) (by omega)
      have index : i / 8 = (i - 8) / 8 + 1 := by omega
      have bit : i % 8 = (i - 8) % 8 := by omega
      rw [index, List.getD_cons_succ, bit, ih, List.getElem?_drop]
      congr 1
      omega

theorem codeBitsPacked : Sys2Proof.Claim.CodeBitsPacked := by
  refine fun bits => ⟨splitBytesFuel_joined _ _, splitBytesFuel_left _ _ (by omega), fun i b hb hi => ?_⟩
  have bit := splitBytesFuel_bit _ bits i (by omega) hi
  rw [hb, Option.some.injEq] at bit
  exact bit

/-- Settles O9: the four tokens one by one, and the packing by induction on the bytes. -/
theorem bandCodeRoundTrip : Obligations.BandCodeRoundTrip := ⟨bandCodeRoundTrip_claim, codeBitsPacked⟩

end Sys2Proof.Machine
end
section
/-! PROOF. Laws that the capture and the decoder's statements share: postings leave DRAM alone, a page record that is in the
table, the slots of both windows, and the wait for room. -/

namespace Sys2Proof.Machine

/-! ## Postings leave DRAM alone -/

@[simp] theorem State.post_mem (s : State) (place : Nat) (v : Word) : (s.post place v).mem = s.mem := by
  unfold State.post State.postWord
  split <;> rfl

theorem State.foldPost_mem : ∀ (ps : List (Nat × Word)) (s : State), (ps.foldl (fun s p => s.post p.1 p.2) s).mem = s.mem
  | [], _ => rfl
  | p :: ps, s => (State.foldPost_mem ps (s.post p.1 p.2)).trans (s.post_mem p.1 p.2)

@[simp] theorem State.postAll_mem (s : State) (place : Nat) (ws : List Word) : (s.postAll place ws).mem = s.mem :=
  State.foldPost_mem _ s

@[simp] theorem State.postPage_mem (s : State) (n : Nat) : (s.postPage n).mem = s.mem := s.postAll_mem _ _

/-! ## Rows whose events find room (R176) -/

/-- The row of an event that finds room is the event, and the end of it. -/
theorem State.settle_event {s t : State} {act : State → State} (room : s.findsRoom act = true) (done : act s = t) :
    (s.event act).settle = .next t.askPort := by
  rw [State.event_eq room, done]; rfl

/-- An event that leaves what stands behind the list as it was need not wait. -/
theorem State.event_of_waiting {s t : State} {act : State → State} (done : act s = t)
    (waiting : t.path.waiting = s.path.waiting) : s.event act = t := by
  rw [State.event_eq (State.findsRoom_of_waiting (by rw [done, waiting])), done]

/-! ## The release of a held word (R174) -/

theorem State.release_of_none {s : State} (held : s.path.held = none) : s.release = s := by
  simp [State.release, held]

/-- The state with no word held. -/
def State.unheld (s : State) : State := { s with path := { s.path with held := none } }

/-- The state in which a word that passes is made: the run that it goes on with, or opens, is the bus's. -/
def State.running (s : State) (op : BusOp) : State := { s with path := { s.path with run := s.runWith op } }

/-! A function that goes by the area of a word is unfolded before it is applied, and the area stands under a name while its
match is decided: at a given word the kernel would reduce the area, and with it the sizes of the map as unary numbers. -/

/-- The area of a word is decided by the regions and the straps (R168). -/
theorem Path.areaOf_congr {p q : Path} (regions : q.regions = p.regions) (straps : q.straps = p.straps) :
    q.areaOf = p.areaOf := by
  funext w
  simp only [Path.areaOf, regions, straps]

/-- The hold condition is decided by the map, the capture slots and the render context (R174). -/
theorem State.mustHold_congr {s t : State} (regions : t.path.regions = s.path.regions) (straps : t.path.straps = s.path.straps)
    (slots : t.coder.slots = s.coder.slots) (render : t.render = s.render) (op : BusOp) : t.mustHold op = s.mustHold op := by
  suffices ∀ f, f = @State.mustHold → f t op = f s op from this _ rfl
  delta State.mustHold
  rintro f rfl
  beta_reduce
  obtain ⟨areaOf, named⟩ : ∃ areaOf, areaOf = s.path.areaOf := ⟨_, rfl⟩
  rw [Path.areaOf_congr regions straps, render, ← named]
  have slot (i : Nat) : t.coder.slot i = s.coder.slot i := by rw [Coder.slot, slots, Coder.slot]
  simp only [slot]

/-- A write of a slot word is held by the PENDING slot. -/
theorem State.mustHold_write {s : State} {w slot word : Nat} {be : BitVec 4} {data : Word} (enabled : be ≠ 0)
    (area : s.path.areaOf w = .captureSlot slot word) :
    s.mustHold (.write w be data) = true ↔ ∃ k, s.coder.slot slot = .pending k := by
  have nonzero : ¬ be = 0#4 := enabled
  suffices ∀ f, f = @State.mustHold → (f s (.write w be data) = true ↔ ∃ k, s.coder.slot slot = .pending k) from this _ rfl
  delta State.mustHold
  rintro f rfl
  beta_reduce
  obtain ⟨areaOf, named⟩ : ∃ areaOf, areaOf = s.path.areaOf := ⟨_, rfl⟩
  rw [← named] at area ⊢
  cases h : s.coder.slot slot <;> simp [area, h, nonzero]

theorem State.mustHold_write_captureRest {s : State} {w : Nat} {be : BitVec 4} {data : Word}
    (area : s.path.areaOf w = .captureRest) : s.mustHold (.write w be data) = false := by
  suffices ∀ f, f = @State.mustHold → f s (.write w be data) = false from this _ rfl
  delta State.mustHold
  rintro f rfl
  beta_reduce
  obtain ⟨areaOf, named⟩ : ∃ areaOf, areaOf = s.path.areaOf := ⟨_, rfl⟩
  rw [← named] at area ⊢
  simp only [area]

/-- A read of a word shown is held by the slot that awaits its line (R53). -/
theorem State.mustHold_read {s : State} {w slot word : Nat} {be : BitVec 4} (area : s.path.areaOf w = .renderSlot slot word) :
    s.mustHold (.read w be) =
      (be != 0 && decide (4 * (word + 1) ≤ s.render.width / 8) && (s.render.slot slot).read == .held) := by
  suffices ∀ f, f = @State.mustHold → f s (.read w be) =
      (be != 0 && decide (4 * (word + 1) ≤ s.render.width / 8) && (s.render.slot slot).read == .held) from this _ rfl
  delta State.mustHold
  rintro f rfl
  beta_reduce
  obtain ⟨areaOf, named⟩ : ∃ areaOf, areaOf = s.path.areaOf := ⟨_, rfl⟩
  rw [← named] at area ⊢
  simp only [area]

theorem State.performWrite_captureSlot {s : State} {w slot word : Nat} {be : BitVec 4} {data : Word}
    (area : s.path.areaOf w = .captureSlot slot word) :
    s.performWrite w be data = (s.passWrite w be data).captureObserved slot word := by
  suffices ∀ f, f = @State.performWrite → f s w be data = (s.passWrite w be data).captureObserved slot word from this _ rfl
  delta State.performWrite
  rintro f rfl
  beta_reduce
  rw [area]

theorem State.performWrite_captureRest {s : State} {w : Nat} {be : BitVec 4} {data : Word}
    (area : s.path.areaOf w = .captureRest) : s.performWrite w be data = s.passWrite w be data := by
  suffices ∀ f, f = @State.performWrite → f s w be data = s.passWrite w be data from this _ rfl
  delta State.performWrite
  rintro f rfl
  beta_reduce
  rw [area]

theorem State.performRead_renderSlot {s : State} {w slot word : Nat} {be : BitVec 4}
    (area : s.path.areaOf w = .renderSlot slot word) (shown : 4 * (word + 1) ≤ s.render.width / 8)
    (passes : (s.render.slot slot).read = .passes) : s.performRead w be = (s.driveDram w be).afterSlotRead slot word := by
  suffices ∀ f, f = @State.performRead → f s w be = (s.driveDram w be).afterSlotRead slot word from this _ rfl
  delta State.performRead
  rintro f rfl
  beta_reduce
  rw [area]
  simp only [shown, if_true, passes]

@[simp] theorem State.mustHold_unheld (s : State) (op : BusOp) : s.unheld.mustHold op = s.mustHold op :=
  State.mustHold_congr (s := s) (t := s.unheld) rfl rfl rfl rfl op

@[simp] theorem State.mustHold_running (s : State) (op made : BusOp) : (s.running made).mustHold op = s.mustHold op :=
  State.mustHold_congr (s := s) (t := s.running made) rfl rfl rfl rfl op

theorem State.takeWord_eq (s : State) (op : BusOp) :
    s.takeWord op = if s.mustHold op then (s.running op).hold op else (s.running op).perform op := by
  rw [← s.mustHold_running op op]
  rfl

theorem State.takeWord_of_passes {s : State} {op : BusOp} (passes : s.mustHold op = false) :
    s.takeWord op = (s.running op).perform op := by
  rw [State.takeWord_eq, passes]; rfl

/-- A held word whose condition no longer holds is made at a free port. -/
theorem State.release_of_portFree {s : State} {h : Held} (held : s.path.held = some h) (passes : s.mustHold h.op = false)
    (port : s.portFree) : s.release = (s.unheld.running h.op).perform h.op := by
  have free : s.unheld.portFree := port
  rw [← State.takeWord_of_passes (by simpa using passes), ← State.busAccess_of_portFree rfl free]
  simp only [State.release, held, passes, State.unheld, Bool.false_eq_true, if_false]

/-! ## Page records in the table -/

theorem PageTable.range_of_get {t : PageTable} {n : Nat} {p : Page} (h : t.get n = some p) : 1 ≤ n ∧ n ≤ 255 := by
  unfold PageTable.get at h
  split at h
  · cases h
  · refine ⟨by omega, ?_⟩
    by_contra big
    rw [Vector.getElem?_eq_none (by omega)] at h
    cases h

theorem PageTable.put_get {t : PageTable} {n : Nat} {p : Page} (h : t.get n = some p) : t.put n (some p) = t := by
  have range := PageTable.range_of_get h
  unfold PageTable.get at h
  unfold PageTable.put
  rw [if_neg (by omega)] at h ⊢
  apply Vector.ext
  intro i hi
  rw [Vector.getElem_setIfInBounds]
  split
  · rename_i e
    subst e
    rw [Vector.getElem?_eq_getElem hi] at h
    simpa using h.symm
  · rfl

theorem State.setPage_self {s : State} {n : Nat} {p : Page} (h : s.page n = some p) : s.setPage n (some p) = s := by
  unfold State.setPage
  rw [PageTable.put_get h]

/-- A record put where one stood is the record read. -/
theorem State.page_setPage_self {s : State} {n : Nat} {p : Page} (h : s.page n = some p) (x : Option Page) :
    (s.setPage n x).page n = x := by
  obtain ⟨low, high⟩ := PageTable.range_of_get h
  simp [State.page_setPage s n n x low high]

/-! ## Damaged pages (R42) -/

/-- A page that is DAMAGED stays as it is. -/
theorem State.markDamaged_of_damaged {s : State} {n : Nat} {p : Page} (h : s.page n = some p) (d : p.damaged = true) :
    s.markDamaged n = s := by
  simp [State.markDamaged, h, d]

/-- The record with DAMAGED set, and its words where it was not. -/
theorem State.posts_markDamaged {s : State} {n : Nat} {p : Page} (h : s.page n = some p) :
    (s.setPage n (some { p with damaged := true })).PostsWords (s.markDamaged n)
      (if p.damaged then fun _ => none
       else atPlaces s.path.straps.controlBase (placed (pagePlace n) (pageWords (some { p with damaged := true })))) := by
  by_cases d : p.damaged = true
  · have same : ({ p with damaged := true } : Page) = p := by rw [← d]
    rw [State.markDamaged_of_damaged h d, same, State.setPage_self h, if_pos d]
    exact (State.Handed.refl s).posts
  · have k := s.posts_changePage n (fun p => { p with damaged := true }) p h
    rw [State.page_setPage_self h] at k
    rw [if_neg d]
    simpa [State.markDamaged, h, d] using k

theorem State.page_markDamaged {s : State} {n : Nat} {p : Page} (h : s.page n = some p) :
    (s.markDamaged n).page n = some { p with damaged := true } := by
  have store := (State.posts_markDamaged h).alike.store
  unfold State.page at h ⊢
  rw [store]
  exact State.page_setPage_self (s := s) h _

end Sys2Proof.Machine
end
section
/-! PROOF. Postings at known places: what an event posts, and that registers changed on both sides leave it so. -/

namespace Sys2Proof.Machine

/-- `t` is `s` but for postings at the places: DRAM is as it was, and every word elsewhere settles as before. -/
structure State.PostsAt (s t : State) (places : List Nat) : Prop where
  alike : s.Alike t
  mem : t.mem = s.mem
  settled : Memory.wf s.mem = true → s.postsOnly t places

namespace State.PostsAt

variable {s t u : State} {places others : List Nat}

theorem refl (s : State) (places : List Nat) : s.PostsAt s places := ⟨.refl s, rfl, fun _ _ _ => rfl⟩

theorem mono (h : s.PostsAt t places) (sub : ∀ p ∈ places, p ∈ others) : s.PostsAt t others :=
  ⟨h.alike, h.mem, fun wf w out => h.settled wf w fun p hp => out p (sub p hp)⟩

theorem trans (h : s.PostsAt t places) (k : t.PostsAt u places) : s.PostsAt u places := by
  refine ⟨h.alike.trans k.alike, k.mem.trans h.mem, fun wf w out => ?_⟩
  rw [k.settled (by rw [h.mem]; exact wf) w (by rw [h.alike.straps]; exact out), h.settled wf w out]

theorem append (h : s.PostsAt t places) (k : t.PostsAt u others) : s.PostsAt u (places ++ others) :=
  (h.mono fun _ hp => List.mem_append_left _ hp).trans (k.mono fun _ hp => List.mem_append_right _ hp)

theorem moves (h : s.PostsAt t places) (wf : Memory.wf s.mem = true) : s.moves t places := ⟨h.alike, h.settled wf⟩

/-- A word posted nowhere settles as before. -/
theorem settledAt (h : s.PostsAt t places) (wf : Memory.wf s.mem = true) {place : Nat} (out : place ∉ places) :
    t.settledAt place = s.settledAt place := by
  simp only [State.settledAt, h.alike.straps]
  refine h.settled wf _ fun p hp e => out ?_
  have : place = p := by omega
  exact this ▸ hp

/-- A record shown stays shown where nothing of it is posted. -/
theorem showsAt (h : s.PostsAt t places) (wf : Memory.wf s.mem = true) {place : Nat} {ws : List Word} (shown : s.showsAt place ws)
    (out : ∀ i < ws.length, place + i ∉ places) : t.showsAt place ws := fun i hi => by
  rw [h.settledAt wf (out i hi), shown i hi]

/-! A register written alike in both states leaves them alike. -/

theorem withCoder (h : s.PostsAt t places) (x : Coder) : ({ s with coder := x } : State).PostsAt { t with coder := x } places :=
  ⟨{ h.alike with coder := rfl }, h.mem, h.settled⟩

theorem withRender (h : s.PostsAt t places) (x : Render) : ({ s with render := x } : State).PostsAt { t with render := x } places :=
  ⟨{ h.alike with render := rfl }, h.mem, h.settled⟩

theorem withStore (h : s.PostsAt t places) (x : Store) : ({ s with store := x } : State).PostsAt { t with store := x } places :=
  ⟨{ h.alike with store := rfl }, h.mem, h.settled⟩

end State.PostsAt

/-! ## What is posted where -/

theorem atPlaces_placed_none {base place : Nat} {ws : List Word} {x : Nat} (out : ∀ p ∈ span place ws.length, x ≠ base + p) :
    atPlaces base (placed place ws) x = none := by
  rw [atPlaces_placed]
  split
  · rw [List.getElem?_eq_none]
    by_contra short
    refine out (x - base) ?_ (by omega)
    simp only [span, List.mem_map, List.mem_range]
    exact ⟨x - (base + place), by omega, by omega⟩
  · rfl

theorem State.PostsWords.postsAt {s t : State} {f : Nat → Option Word} {places : List Nat} (h : s.PostsWords t f)
    (mem : t.mem = s.mem) (out : ∀ x, (∀ p ∈ places, x ≠ s.path.straps.controlBase + p) → f x = none) : s.PostsAt t places :=
  ⟨h.alike, mem, fun wf => (h.moves wf out).2⟩

theorem State.Handed.postsAt {s t : State} (h : s.Handed t) (mem : t.mem = s.mem) : s.PostsAt t [] :=
  h.posts.postsAt mem fun _ _ => rfl

theorem State.postsAt_askPort (s : State) : s.PostsAt s.askPort [] := s.handed_askPort.postsAt rfl

theorem State.postsAt_post (s : State) (place : Nat) (v : Word) : s.PostsAt (s.post place v) [place] :=
  (s.posts_post place v).postsAt (s.post_mem place v) fun _ out => if_neg (out place (List.mem_singleton_self _))

theorem State.postsAt_postAll (s : State) (place : Nat) (ws : List Word) :
    s.PostsAt (s.postAll place ws) (span place ws.length) :=
  (s.posts_postAll place ws).postsAt (s.postAll_mem place ws) fun _ out => atPlaces_placed_none out

@[simp] theorem stampWords_length (c : Option Calendar) : (stampWords c).length = 2 := by cases c <;> rfl

@[simp] theorem idWords_length (id : Option (List Byte)) : (idWords id).length = 6 := by
  cases id <;> simp [idWords, wordsOfBytes]

@[simp] theorem pageWords_length (p : Option Page) : (pageWords p).length = 16 := by
  cases p <;> simp [pageWords]

theorem State.postsAt_postPage (s : State) (n : Nat) : s.PostsAt (s.postPage n) (span (pagePlace n) 16) := by
  have h := s.postsAt_postAll (pagePlace n) (pageWords (s.page n))
  rwa [pageWords_length] at h

/-- R42: what DAMAGED posts. -/
theorem State.postsAt_markDamaged {s : State} {n : Nat} {p : Page} (h : s.page n = some p) :
    (s.setPage n (some { p with damaged := true })).PostsAt (s.markDamaged n) (span (pagePlace n) 16) := by
  refine (State.posts_markDamaged h).postsAt ?_ fun x out => ?_
  · by_cases d : p.damaged = true <;> simp [State.markDamaged, State.changePage, h, d]
  · split
    · rfl
    · exact atPlaces_placed_none (by rwa [pageWords_length])

/-- R28: what LONG posts. -/
theorem State.postsAt_markLong {s : State} {p : Page} (h : s.page s.coder.page = some p) :
    (s.setPage s.coder.page (some { p with long := true })).PostsAt s.markLong (span (pagePlace s.coder.page) 16) := by
  by_cases d : p.long = true
  · have same : ({ p with long := true } : Page) = p := by rw [← d]
    rw [same, State.setPage_self h, show s.markLong = s by simp [State.markLong, h, d]]
    exact .refl s _
  · have marked : s.markLong = (s.setPage s.coder.page (some { p with long := true })).postPage s.coder.page := by
      simp [State.markLong, State.changePage, h, d]
    rw [marked]
    exact State.postsAt_postPage _ _

theorem State.showsAt_postPage {s : State} (wf : Memory.wf s.mem = true) (n : Nat) :
    (s.postPage n).showsAt (pagePlace n) (pageWords (s.page n)) := s.showsAt_postAll wf _ _

end Sys2Proof.Machine
end
section
/-! PROOF. The decoder: what the placing of a line leaves (R50), what the decoding of a line marks (R42), and the filling of a
slot with the read that waits for it (R53). -/

namespace Sys2Proof.Machine

/-! ## Slots -/

theorem Render.slot_eq (r : Render) (i : Nat) : r.slot i = r.slots[i % 8]'(Nat.mod_lt _ (by decide)) := by
  have lt : i % 8 < 8 := Nat.mod_lt _ (by decide)
  simp [Render.slot, Vector.getD, lt]

theorem Render.slotIs_iff (r : Render) (i : Nat) (x : RenderSlot) : r.slotIs i x ↔ r.slot i = x := by
  rw [Render.slot_eq]; rfl

/-- The slot written, and every other. -/
theorem Render.slot_setSlot (r : Render) (i j : Nat) (x : RenderSlot) :
    (r.setSlot i x).slot j = if i % 8 = j % 8 then x else r.slot j := by
  simp only [Render.slot_eq, Render.setSlot, Vector.getElem_setIfInBounds]

theorem Render.otherSlots_setSlot (r : Render) (i : Nat) (x : RenderSlot) : r.otherSlots (r.setSlot i x) i := by
  intro j hj
  have ne : ¬ i % 8 = j.val := fun e => hj e.symm
  simp [Render.setSlot, ne]

/-! ## The placing of a line (R50) -/

/-- The context changed in the fields that the placing of a line moves. -/
def Render.placed (r : Render) (produced : Bool) (nextLine : Nat) (writing : Option Nat) (writes : List ByteWrite) : Render :=
  { r with produced := produced, nextLine := nextLine, writing := writing, writes := writes }

/-- The line produced is placed by the state of its slot, and nothing else of the state moves. -/
theorem State.placeProduced_spec (s : State) : ∃ produced nextLine writing writes,
    let x := s.render.placed produced nextLine writing writes
    s.placeProduced = { s with render := x } ∧ s.placesLine s.render x := by
  unfold State.placeProduced State.placesLine
  simp only [Render.slotIs_iff]
  generalize s.render.slot s.render.nextLine = slot
  cases slot with
  | full j =>
    exact ⟨true, s.render.nextLine, s.render.writing, s.render.writes, rfl, by simp [Render.placed]⟩
  | emptyDone =>
    exact ⟨false, s.render.nextLine + 1, s.render.writing, s.render.writes, rfl, by simp [Render.placed]⟩
  | noLine =>
    exact ⟨false, s.render.nextLine + 1, s.render.writing, s.render.writes, rfl, by simp [Render.placed]⟩
  | empty j lost =>
    rcases lt_trichotomy j s.render.nextLine with before | here | later
    · refine ⟨true, s.render.nextLine, s.render.writing, s.render.writes, by simp [before, Render.placed], ?_⟩
      simp only [RenderSlot.empty.injEq, Render.placed]
      grind
    · cases lost with
      | true =>
        refine ⟨false, s.render.nextLine + 1, s.render.writing, s.render.writes, by simp [here, Render.placed], ?_⟩
        simp [here, Render.placed]
      | false =>
        refine ⟨false, s.render.nextLine, some s.render.nextLine, _, by simp only [here, lt_irrefl, if_false, and_self, if_true]; rfl, ?_⟩
        simp [here, Render.placed]
    · have no : ¬ j < s.render.nextLine := by omega
      have ne : j ≠ s.render.nextLine := by omega
      refine ⟨false, s.render.nextLine + 1, s.render.writing, s.render.writes, by simp [no, ne, Render.placed], ?_⟩
      simp only [RenderSlot.empty.injEq, Render.placed]
      grind

theorem State.placesLine_of_regions {s t : State} (h : t.path.regions = s.path.regions) {r x : Render}
    (placed : t.placesLine r x) : s.placesLine r x := by
  have addr : t.renderSlotAddr r.nextLine = s.renderSlotAddr r.nextLine := by simp only [State.renderSlotAddr, h]
  simpa only [State.placesLine, addr] using placed

/-! ## The line read (R40 to R42) -/

/-- What reading the next line gives; once reading has stopped every line is white. -/
def State.lineRead (s : State) (p : Page) : ReadLine :=
  if s.render.stopped then ReadLine.stop p.width s.render.codePos
  else readLine (s.codeBit p) p.width s.render.reference s.render.codePos

/-- The context that has taken a line read. -/
def Render.took (r : Render) (out : ReadLine) : Render :=
  { r with reference := out.line, codePos := out.pos, stopped := out.stopped, got := 0 }

/-- R42: the code of the line is damaged, or END does not follow the last line. -/
def State.lineDamages (s : State) (p : Page) : Prop :=
  (s.lineRead p).damaged = true ∨ (s.render.nextLine + 1 = s.render.lineCount ∧ (s.lineRead p).stopped = false ∧
    readsEnd (s.codeBit p) (s.lineRead p).pos = false)

/-- The line is taken, and a page whose code is damaged is marked, at most once (R42). -/
theorem State.produceLine_spec {s : State} {p : Page} (h : s.page s.render.page = some p) :
    let u : State := { s with render := s.render.took (s.lineRead p) }
    (¬ s.lineDamages p → s.produceLine p = u) ∧ (s.lineDamages p → s.produceLine p = u.markDamaged s.render.page) := by
  intro u
  have hu : u.page s.render.page = some p := h
  have once : (u.markDamaged s.render.page).markDamaged s.render.page = u.markDamaged s.render.page :=
    State.markDamaged_of_damaged (State.page_markDamaged hu) rfl
  have eq : s.produceLine p =
      (let v := if (s.lineRead p).damaged then u.markDamaged s.render.page else u
       if s.render.nextLine + 1 = s.render.lineCount && !(s.lineRead p).stopped && !readsEnd (v.codeBit p) (s.lineRead p).pos
       then v.markDamaged s.render.page else v) := rfl
  have bits : u.codeBit p = s.codeBit p := rfl
  rw [eq, State.lineDamages]
  by_cases d : (s.lineRead p).damaged = true
  · simp [d, once]
  · simp only [d, Bool.false_eq_true, if_false, bits, false_or]
    constructor <;> intro e <;> simp at e ⊢ <;> grind

/-- The row's own part: the line taken, marked and placed (R50). -/
theorem State.decodeLine_eq {s : State} {p : Page} (rendering : s.render.rendering = true)
    (more : s.render.nextLine < s.render.lineCount) (produced : s.render.produced = false) (writing : s.render.writing = none)
    (page : s.page s.render.page = some p) :
    s.decodeLine = if s.codeAhead = [] then (s.produceLine p).placeProduced else s := by
  simp [State.decodeLine, Render.decoding, rendering, more, produced, writing, page]

/-- R40 to R42, R50: a line is decoded once its code has been read. -/
theorem renderLineDecoded : Sys2Proof.Claim.RenderLineDecoded := by
  intro s p wf rendering more produced writing page r k out read damage
  have row := State.decodeLine_eq rendering more produced writing page
  refine ⟨fun left => ?_, fun none_left fits => ?_⟩
  · have stays : renderLineDecodedEvent s = s := by simp [renderLineDecodedEvent, row, left]
    exact ⟨_, congrArg State.settle (State.event_of_waiting stays rfl), s.untouched_askPort⟩
  · obtain ⟨intact, marked⟩ := State.produceLine_spec page
    have taken : (s.produceLine p).render = read ∧ (s.produceLine p).path.regions = s.path.regions := by
      by_cases d : s.lineDamages p
      · rw [marked d]
        have alike := (State.postsAt_markDamaged (s := { s with render := read }) page).alike
        exact ⟨alike.render, alike.regions⟩
      · rw [intact d]
        exact ⟨rfl, rfl⟩
    obtain ⟨a, b, c, d, placed, places⟩ := (s.produceLine p).placeProduced_spec
    rw [taken.1] at placed places
    have done : renderLineDecodedEvent s = { s.produceLine p with render := read.placed a b c d } := by
      rw [← placed, renderLineDecodedEvent, row, if_pos none_left]
    refine ⟨_, State.settle_event (act := renderLineDecodedEvent) fits done, rfl, rfl, rfl, rfl, rfl, rfl, rfl,
      State.placesLine_of_regions taken.2 places, fun no => ?_, fun yes => ?_⟩
    · have e : s.produceLine p = { s with render := read } := intact no
      rw [e]
      exact (State.postsAt_askPort _).moves wf
    · have e : s.produceLine p = ({ s with render := read } : State).markDamaged r.page := marked yes
      rw [e]
      have posted := (State.postsAt_markDamaged (s := { s with render := read }) page).withRender (read.placed a b c d)
      exact (posted.append (State.postsAt_askPort _)).moves wf |> fun h => by simpa using h

/-! ## The slot filled (R50, R53) -/

/-- The context once the line being written has reached DRAM. -/
def Render.filled (r : Render) (k : Nat) : Render :=
  { (if r.slot k = .empty k false then r.setSlot k (.full k) else r) with writing := none, nextLine := k + 1 }

theorem State.slotFilled_eq {s : State} {k : Nat} (writing : s.render.writing = some k) :
    s.slotFilled = if s.render.writes = [] then ({ s with render := s.render.filled k } : State).release else s := by
  simp [State.slotFilled, writing, Render.filled]

/-- A read of a word of a FULL slot other than the line's last brings DRAM data. -/
theorem State.perform_read_full {s : State} {w k slot word : Nat} {be : BitVec 4} (enabled : be ≠ 0)
    (area : s.path.areaOf w = .renderSlot slot word) (inner : 4 * (word + 1) < s.render.width / 8)
    (full : s.render.slot slot = .full k) : s.perform (.read w be) = s.driveDram w be := by
  have within : 4 * (word + 1) ≤ s.render.width / 8 := by omega
  have notLast : 4 * (word + 1) ≠ (s.driveDram w be).render.width / 8 := Nat.ne_of_lt inner
  rw [State.perform, if_neg enabled, State.performRead_renderSlot area within (by rw [full]; rfl), State.afterSlotRead,
    if_neg notLast]

/-- R50, R53: the last byte of the line being written has reached DRAM. -/
theorem renderSlotFilled : Sys2Proof.Claim.RenderSlotFilled := by
  intro s k wf writing stalled r full
  have filled := State.slotFilled_eq writing
  have awaited (e : r.slotIs k (.empty k false)) : r.filled k = full ∧ full.slotIs k (.full k) ∧ r.otherSlots full k := by
    have slot := (r.slotIs_iff _ _).mp e
    refine ⟨by simp [Render.filled, slot, Render.setSlot, full], ?_, r.otherSlots_setSlot k _⟩
    have written := r.slot_setSlot k k (.full k)
    rw [if_pos rfl] at written
    exact (Render.slotIs_iff _ _ _).mpr written
  refine ⟨_, rfl, fun left => ?_, fun written held => ?_, fun w be since word written held enabled area inner slot port => ?_⟩
  · have stays : renderSlotFilledEvent s = s := by
      rw [renderSlotFilledEvent, filled, if_neg left, State.resumeBus_nil stalled]
    rw [State.event_of_waiting stays rfl]
    exact s.untouched_askPort
  · have done : renderSlotFilledEvent s = { s with render := r.filled k } := by
      rw [renderSlotFilledEvent, filled, if_pos written, State.release_of_none (by exact held), State.resumeBus_nil (by exact stalled)]
    rw [State.event_of_waiting done rfl]
    refine ⟨rfl, (State.handed_askPort _).alike, ⟨rfl, rfl⟩, fun e => ?_, fun no => ?_⟩
    · obtain ⟨eq, isFull, others⟩ := awaited e
      exact ⟨eq, eq ▸ isFull, eq ▸ others⟩
    · have slot := mt (r.slotIs_iff k _).mpr no
      simp [Render.filled, slot]
  · obtain ⟨eq, isFull, -⟩ := awaited slot
    let u : State := { s with render := full }
    have isFull_at : full.slot (k % 8) = .full k := by
      have e := (Render.slotIs_iff _ _ _).mp isFull
      rw [Render.slot_eq] at e ⊢
      simpa only [Nat.mod_mod] using e
    have area_at : ∀ v : State, v.path.regions = s.path.regions → v.path.straps = s.path.straps →
        v.path.areaOf w = .renderSlot (k % 8) word := fun v regions straps => (congrFun (Path.areaOf_congr regions straps) w).trans area
    have passes : u.mustHold (.read w be) = false := by
      have read : u.render.slot (k % 8) = .full k := isFull_at
      rw [State.mustHold_read (area_at u rfl rfl), read]
      simp [RenderSlot.read]
    have released := State.release_of_portFree (s := u) held passes port
    rw [State.perform_read_full (s := u.unheld.running (.read w be)) enabled (area_at _ rfl rfl) inner isFull_at] at released
    have done : renderSlotFilledEvent s = (u.unheld.running (.read w be)).driveDram w be := by
      rw [renderSlotFilledEvent, filled, if_pos written, eq, released, State.resumeBus_nil (by exact stalled)]
    rw [State.event_of_waiting done rfl]
    exact ⟨rfl, rfl, isFull, rfl⟩

/-- Settles O27, by the rules of the row that decodes a line and of the row that writes it. -/
theorem decoder : Obligations.Decoder :=
  ⟨renderLineDecoded, renderSlotFilled⟩

end Sys2Proof.Machine
end
section
/-! PROOF. The capture window: the area of its words (R168), what a write that passes completes (R24, R28, R32), and the host
write of a slot word (R25). -/

namespace Sys2Proof.Machine

/-- The traffic of the port and DRAM are nothing that the rules name. -/
theorem State.alike_run (s : State) (run : Option BusRun) (requests : Requests) (mem : List Host.Cell) :
    s.Alike { s with mem := mem, path := { s.path with run := run, requests := requests } } :=
  { regions := rfl, holdLimit := rfl, straps := rfl, held := rfl, atPort := rfl, stalled := rfl, readData := rfl, store := rfl
    coder := rfl, render := rfl, lines := rfl, sessions := rfl, stationId := rfl, dispatch := rfl, charge := rfl, clock := rfl
    moved := fun _ => rfl, producer := rfl, consumer := rfl, inProgress := rfl, report := rfl, guard := rfl, pending := rfl }

/-- The run that a word goes on with is nothing that is posted. -/
theorem State.postsAt_run (s : State) (run : Option BusRun) : s.PostsAt { s with path := { s.path with run := run } } [] :=
  ⟨s.alike_run run s.path.requests s.mem, rfl, fun _ _ _ => rfl⟩

/-! ## Slots -/

theorem Coder.slot_eq (c : Coder) (i : Nat) : c.slot i = c.slots[i % 8]'(Nat.mod_lt _ (by decide)) := by
  have lt : i % 8 < 8 := Nat.mod_lt _ (by decide)
  simp [Coder.slot, Vector.getD, lt]

theorem Coder.slotIs_iff (c : Coder) (i : Nat) (x : CaptureSlot) : c.slotIs i x ↔ c.slot i = x := by
  rw [Coder.slot_eq]; rfl

/-- The slot written, and every other. -/
theorem Coder.slot_setSlot (c : Coder) (i j : Nat) (x : CaptureSlot) :
    (c.setSlot i x).slot j = if i % 8 = j % 8 then x else c.slot j := by
  simp only [Coder.slot_eq, Coder.setSlot, Vector.getElem_setIfInBounds]

theorem Coder.slotIs_setSlot (c : Coder) (i : Nat) (x : CaptureSlot) : (c.setSlot i x).slotIs i x := by
  rw [Coder.slotIs_iff, Coder.slot_setSlot, if_pos rfl]

theorem Coder.otherSlots_setSlot (c : Coder) (i : Nat) (x : CaptureSlot) : c.otherSlots (c.setSlot i x) i := by
  intro j hj
  have ne : ¬ i % 8 = j.val := fun e => hj e.symm
  simp [Coder.setSlot, ne]

/-! ## The words of the window (R168, R172) -/

/-- R168, with regions set. -/
theorem Path.areaOf_map {p : Path} {r : Regions} (regions : p.regions = some r) (w : Nat) :
    p.areaOf w = if p.straps.dramMiB * 262144 ≤ w then .beyond
      else if p.straps.dramMiB * 262144 - 16384 ≤ w then .control (w - (p.straps.dramMiB * 262144 - 16384))
      else r.areaOf w := by
  rw [Path.areaOf, regions]
  rfl

/-- Regions that pass the tests of R172 place the window apart from the store and below the control area. -/
theorem State.areaOf_captureWindow {s : State} {r : Regions} (regions : s.path.regions = some r) (sound : s.regionsSound)
    (dram : 1 ≤ s.path.straps.dramMiB) {n : Nat} (inside : n < 1024) :
    s.path.areaOf (r.captureBase / 4 + n) = if n < 640 then .captureSlot (n / 80) (n % 80) else .captureRest := by
  obtain ⟨⟨a, storeBase⟩, ⟨b, captureBase⟩, -, ⟨c, storeLength⟩, -, -, -, captureEnd, -, apart, -, -⟩ := sound r regions
  rw [Path.areaOf_map regions]
  generalize s.path.straps.dramMiB = d at dram captureEnd ⊢
  rw [if_neg (by omega), if_neg (by omega), Regions.areaOf, if_neg (by omega), if_pos (by omega), Nat.add_sub_cancel_left]

/-! ## A write that passes is observed (R24, R28, R32, R33) -/

/-- The word of the line's last byte. -/
def Coder.completedBy (c : Coder) (word : Nat) : Prop := c.width = some (32 * (word + 1))

/-- Nothing is completed by another word, in IDLE, and in a closing context. -/
theorem State.captureObserved_idle {s : State} {slot word : Nat}
    (h : ¬ s.coder.completedBy word ∨ s.coder.state = .idle ∨ (s.coder.state = .opened ∧ s.coder.closing = true)) :
    s.captureObserved slot word = s := by
  rw [Coder.completedBy] at h
  simp only [State.captureObserved]
  cases width : s.coder.width with
  | none => rfl
  | some w =>
    rw [width, Option.some.injEq] at h
    by_cases last : 32 * (word + 1) = w
    · have quiet := h.resolve_left (not_not_intro last.symm)
      cases s.coder.slot slot with
      | pending k => simp
      | free k => rcases quiet with idle | ⟨opened, closing⟩ <;> simp [*]
    · simp [last]

section Completed
variable {s : State} {slot word k : Nat} (completes : s.coder.completedBy word) (free : s.coder.slot slot = .free k)
include completes free

/-- R32: a line completed in FULL is dropped. -/
theorem State.captureObserved_full (full : s.coder.state = .full) :
    s.captureObserved slot word = { s with coder := s.coder.setSlot slot (.free (k + 8)) } := by
  rw [Coder.completedBy] at completes
  simp only [State.captureObserved, completes, if_true, free, full]

/-- R24: a line completed in OPEN awaits its take. -/
theorem State.captureObserved_pending (opened : s.coder.state = .opened) (going : s.coder.closing = false) (le : k ≤ 8190) :
    s.captureObserved slot word = { s with coder := s.coder.setSlot slot (.pending k) } := by
  rw [Coder.completedBy] at completes
  simp only [State.captureObserved, completes, if_true, free, opened, going, le, Bool.false_eq_true, if_false]

/-- R28: a line from 8191 on marks the page LONG. -/
theorem State.captureObserved_long (opened : s.coder.state = .opened) (going : s.coder.closing = false) (gt : 8190 < k) :
    s.captureObserved slot word = ({ s with coder := s.coder.setSlot slot (.free (k + 8)) } : State).markLong := by
  rw [Coder.completedBy] at completes
  simp only [State.captureObserved, completes, if_true, free, opened, going, Nat.not_le.mpr gt, Bool.false_eq_true, if_false]

end Completed

/-! ## The host write (R25) -/

theorem captureWindowWriteEvent_eq {s : State} {r : Regions} (regions : s.path.regions = some r) (held : s.path.held = none)
    (port : s.portFree) (word : BitVec 10) (be : BitVec 4) (data : Word) :
    captureWindowWriteEvent word be data s = s.takeWord (.write (r.captureBase / 4 + word.toNat) be data) := by
  rw [captureWindowWriteEvent, regions]
  exact State.busAccess_of_portFree held port

/-- Settles O21: by the slot that the word falls in, and by what its line's last word completes. -/
theorem captureWindowWrite : Obligations.CaptureWindowWrite := by
  intro word be data s r wf regions sound dram enabled held port c i at_ mem completes
  let op := BusOp.write at_ be data
  let act := captureWindowWriteEvent word be data
  let passed : State := (s.running op).passWrite at_ be data
  have inside : word.toNat < 1024 := word.isLt
  have area := State.areaOf_captureWindow regions sound dram inside
  have area : (s.running op).path.areaOf at_ = _ := (congrFun (Path.areaOf_congr rfl rfl) _).trans area
  have event : act s = s.takeWord op := captureWindowWriteEvent_eq regions held port word be data
  have only : s.passesOnly passed.askPort at_ be data :=
    ⟨State.alike_run _ _ _ _, rfl, rfl, rfl⟩
  refine ⟨(s.event act).askPort, rfl, fun rest => ?_, fun inSlots => ⟨fun k pending => ?_, fun k free => ?_⟩⟩
  · rw [if_neg (by omega)] at area
    have done : act s = passed := by
      rw [event, State.takeWord_of_passes (by rw [← s.mustHold_running op op, State.mustHold_write_captureRest area]),
        State.perform, if_neg enabled, State.performWrite_captureRest area]
    rw [State.event_of_waiting done rfl]
    exact only
  · rw [if_pos inSlots] at area
    have holds : s.mustHold op = true := by
      rw [← s.mustHold_running op op]
      exact (State.mustHold_write enabled area).mpr ⟨k, (c.slotIs_iff _ _).mp pending⟩
    have done : act s = (s.running op).hold op := by rw [event, State.takeWord_eq, if_pos holds]
    rw [State.event_of_waiting done rfl]
    exact ⟨State.alike_run _ _ _ _, rfl, rfl, rfl⟩
  · rw [if_pos inSlots] at area
    have free : passed.coder.slot i = .free k := (c.slotIs_iff _ _).mp free
    have passes : s.mustHold op = false := by
      rw [← s.mustHold_running op op, Bool.eq_false_iff, Ne, State.mustHold_write enabled area]
      rintro ⟨j, pending⟩
      exact CaptureSlot.noConfusion (free.symm.trans pending)
    have observed : act s = passed.captureObserved i (word.toNat % 80) := by
      rw [event, State.takeWord_of_passes passes, State.perform, if_neg enabled, State.performWrite_captureSlot area]
    have sets (x : CaptureSlot) : (c.setSlot i x).slotIs i x ∧ c.otherSlots (c.setSlot i x) i :=
      ⟨c.slotIs_setSlot i x, c.otherSlots_setSlot i x⟩
    refine ⟨fun idle => ?_, fun completes opened going le => ?_, fun completes full => ?_,
      fun completes opened going lt fits p page => ?_⟩
    · rw [State.event_of_waiting (observed.trans (State.captureObserved_idle idle)) rfl]
      exact only
    · rw [State.event_of_waiting (observed.trans (State.captureObserved_pending completes free opened going le)) rfl]
      exact ⟨rfl, (sets _).1, (sets _).2, State.alike_run _ _ _ _⟩
    · rw [State.event_of_waiting (observed.trans (State.captureObserved_full completes free full)) rfl]
      exact ⟨rfl, (sets _).1, (sets _).2, State.alike_run _ _ _ _⟩
    · let dropped : State := { passed with coder := c.setSlot i (.free (k + 8)) }
      have done : s.event act = dropped.markLong := by
        rw [State.event_eq (act := act) fits, observed,
          State.captureObserved_long (s := passed) completes free opened going lt]
        rfl
      let u : State := { s with
        mem := mem, coder := dropped.coder
        store := { s.store with pages := s.store.pages.put c.page (some { p with long := true }) } }
      have posted : u.PostsAt (s.event act).askPort (span (pagePlace c.page) 16 ++ []) := by
        have marked := State.postsAt_markLong (s := dropped) page
        rw [done]
        exact (((u.postsAt_run (s.runWith op)).mono (by simp)).trans marked).append (State.postsAt_askPort _)
      have coder : (s.event act).askPort.coder = dropped.coder := posted.alike.coder
      rw [coder]
      exact ⟨(sets _).1, (sets _).2, (posted.mono (by simp)).moves (Memory.wf_writeMasked _ _ _ _ wf)⟩

end Sys2Proof.Machine
end
section
/-! PROOF. Laws that the held capture write and the end of a capture share: reports handed, what the coder's operations leave
of the bus, and a capture write released (R174). -/

namespace Sys2Proof.Machine

/-! ## Reports (R185) -/

/-- A report is the report unit's alone, whatever has been posted before it. -/
theorem State.PostsAt.reported {s t : State} {places : List Nat} (h : s.PostsAt t places) (r : Report) :
    (s.reported r).PostsAt (t.reported r) places := by
  have now : t.clock.now = s.clock.now := by rw [h.alike.clock]
  simp only [State.reported, h.alike.report, State.after, now]
  split
  · split <;> exact ⟨{ h.alike with report := rfl }, h.mem, h.settled⟩
  · exact h

theorem State.PostsAt.reportPlaces {s t : State} {places : List Nat} (h : s.PostsAt t places) (r : Report) :
    t.reportPlaces r = s.reportPlaces r := by
  simp only [State.reportPlaces, h.alike.report]

/-- What handing a report does: the report unit, and its postings. -/
theorem State.postsAt_handReport (s : State) (r : Report) : (s.reported r).PostsAt (s.handReport r) (s.reportPlaces r) := by
  unfold State.reported State.handReport State.reportPlaces
  split
  · unfold State.writeReport
    split
    · exact (((State.postsAt_postAll _ _ _).append (State.postsAt_post _ _ _)).append (State.postsAt_post _ _ _)).mono (by
        simp [reportWords])
    · exact State.postsAt_post _ _ _
  · exact .refl s _

/-- The page table lies apart from what a report posts. -/
theorem State.pagePlace_not_mem_reportPlaces (s : State) (r : Report) (n i : Nat) : pagePlace n + i ∉ s.reportPlaces r := by
  have ring : s.report.producer.toNat % Config.reportSlots < 64 := Nat.mod_lt _ (by decide)
  generalize slot : s.report.producer.toNat % Config.reportSlots = k at ring
  have apart : ∀ j < 8, pagePlace n + i ≠ reportPlace k + j := by
    intro j hj
    simp only [pagePlace, pageTablePlace, reportPlace, reportRingPlace]
    omega
  have producer : pagePlace n + i ≠ reportProducerPlace := by
    simp only [pagePlace, pageTablePlace, reportProducerPlace]
    omega
  have status : pagePlace n + i ≠ statusPlace + 15 := by
    simp only [pagePlace, pageTablePlace, statusPlace]
    omega
  unfold State.reportPlaces
  rw [slot]
  split
  · split
    · simp only [span, List.mem_append, List.mem_map, List.mem_range, List.mem_cons, List.not_mem_nil, or_false, not_or]
      exact ⟨fun ⟨j, hj, e⟩ => apart j hj e.symm, producer, status⟩
    · simpa using status
  · simp

/-! ## Page records -/

theorem State.postsAt_changePage {s : State} {n : Nat} {p : Page} (h : s.page n = some p) (f : Page → Page) :
    (s.setPage n (some (f p))).PostsAt (s.changePage n f) (span (pagePlace n) 16) := by
  have changed : s.changePage n f = (s.setPage n (some (f p))).postPage n := by simp [State.changePage, h]
  rw [changed]
  exact State.postsAt_postPage _ _

/-- A record changed is shown. -/
theorem State.showsAt_changePage {s : State} (wf : Memory.wf s.mem = true) {n : Nat} {p : Page} (h : s.page n = some p)
    (f : Page → Page) : (s.changePage n f).showsAt (pagePlace n) (pageWords (some (f p))) := by
  have changed : s.changePage n f = (s.setPage n (some (f p))).postPage n := by simp [State.changePage, h]
  have shown := State.showsAt_postPage (s := s.setPage n (some (f p))) wf n
  rw [State.page_setPage_self h] at shown
  rw [changed]
  exact shown

theorem PageTable.put_put (t : PageTable) (n : Nat) (p q : Option Page) : (t.put n p).put n q = t.put n q := by
  unfold PageTable.put
  split
  · rfl
  · exact Vector.setIfInBounds_setIfInBounds _

/-! ## What leaves the bus as it was -/

/-- DRAM, the word held, and the words behind it are as they were. -/
structure State.KeepsBus (s t : State) : Prop where
  mem : t.mem = s.mem
  held : t.path.held = s.path.held
  stalled : t.path.stalled = s.path.stalled

namespace State.KeepsBus

theorem refl (s : State) : s.KeepsBus s := ⟨rfl, rfl, rfl⟩

theorem trans {s t u : State} (h : s.KeepsBus t) (k : t.KeepsBus u) : s.KeepsBus u :=
  ⟨k.mem.trans h.mem, k.held.trans h.held, k.stalled.trans h.stalled⟩

/-- What was there before registers of the blocks were written. -/
theorem after {s t u : State} (h : t.KeepsBus u) (mem : t.mem = s.mem) (held : t.path.held = s.path.held)
    (stalled : t.path.stalled = s.path.stalled) : s.KeepsBus u := .trans ⟨mem, held, stalled⟩ h

end State.KeepsBus

theorem State.PostsAt.keepsBus {s t : State} {places : List Nat} (h : s.PostsAt t places) : s.KeepsBus t :=
  ⟨h.mem, h.alike.held, h.alike.stalled⟩

theorem State.keepsBus_changePage (s : State) (n : Nat) (f : Page → Page) : s.KeepsBus (s.changePage n f) := by
  cases h : s.page n with
  | none => rw [State.changePage_free s n f h]; exact .refl s
  | some p => exact (State.postsAt_changePage h f).keepsBus.after rfl rfl rfl

theorem State.keepsBus_markLong (s : State) : s.KeepsBus s.markLong := by
  unfold State.markLong
  split
  · exact .refl s
  · split
    · exact .refl s
    · exact s.keepsBus_changePage _ _

theorem State.keepsBus_captureObserved (s : State) (slot word : Nat) : s.KeepsBus (s.captureObserved slot word) := by
  unfold State.captureObserved
  dsimp only
  repeat' split
  any_goals exact ⟨rfl, rfl, rfl⟩
  exact (State.keepsBus_markLong _).after rfl rfl rfl

theorem State.keepsBus_appendCode (s : State) (bits : List Bool) : s.KeepsBus (s.appendCode bits) := by
  unfold State.appendCode
  dsimp only
  split <;> exact ⟨rfl, rfl, rfl⟩

theorem State.keepsBus_code (s : State) (k : AskedCode) : s.KeepsBus (s.code k) := by
  unfold State.code
  split
  · have appended := s.keepsBus_appendCode k.bits
    unfold State.writeCode
    cases k.line with
    | none => exact appended.trans ((State.postsAt_postPage _ _).keepsBus.after rfl rfl rfl)
    | some line => exact appended.trans ((State.keepsBus_changePage _ _ _).after rfl rfl rfl)
  · exact ⟨rfl, rfl, rfl⟩

/-- With no word held END releases none. -/
theorem State.keepsBus_codeEnd {s : State} (held : s.path.held = none) : s.KeepsBus s.codeEnd := by
  unfold State.codeEnd
  split
  · rw [State.release_of_none (by exact held)]
    dsimp only
    split
    · exact ⟨rfl, rfl, rfl⟩
    · exact (State.keepsBus_code _ _).after rfl rfl rfl
  · exact .refl s

/-! ## A capture write released (R174) -/

/-- A write of a slot word asks for the port (R178). -/
theorem State.usesPort_captureSlot {s : State} {w slot word : Nat} {be : BitVec 4} {data : Word} (enabled : be ≠ 0)
    (area : s.path.areaOf w = .captureSlot slot word) : s.usesPort (.write w be data) = true := by
  have nonzero : ¬ be = 0#4 := enabled
  suffices ∀ f, f = @State.usesPort → f s (.write w be data) = true from this _ rfl
  delta State.usesPort
  rintro f rfl
  beta_reduce
  obtain ⟨areaOf, named⟩ : ∃ areaOf, areaOf = s.path.areaOf := ⟨_, rfl⟩
  rw [← named] at area ⊢
  simp [area, nonzero]

section Released
variable {s : State} {w slot word since : Nat} {be : BitVec 4} {data : Word} (enabled : be ≠ 0)
  (area : s.path.areaOf w = .captureSlot slot word) (free : ∀ k, s.coder.slot slot ≠ .pending k)
include enabled area free

theorem State.mustHold_of_free : s.mustHold (.write w be data) = false := by
  rw [Bool.eq_false_iff, Ne, State.mustHold_write enabled area]
  exact fun ⟨k, pending⟩ => free k pending

variable (held : s.path.held = some ⟨.write w be data, since⟩)
include held

/-- At a free port it passes, and is observed. -/
theorem State.release_passes (port : s.portFree) :
    s.release = ((s.unheld.running (.write w be data)).passWrite w be data).captureObserved slot word := by
  rw [State.release_of_portFree held (State.mustHold_of_free enabled area free) port, State.perform, if_neg enabled]
  exact State.performWrite_captureSlot ((congrFun (Path.areaOf_congr rfl rfl) w).trans area)

/-- At a busy port it waits. -/
theorem State.release_waits (atPort : s.path.atPort = none) (port : s.portBusy) :
    s.release = s.unheld.waitForGrant (.write w be data) := by
  have passes : s.mustHold (.write w be data) = false := State.mustHold_of_free enabled area free
  have uses : s.unheld.usesPort (.write w be data) = true :=
    State.usesPort_captureSlot enabled ((congrFun (Path.areaOf_congr rfl rfl) w).trans area)
  have second : s.unheld.busGoesFirst = false := State.busGoesFirst_of_portBusy port
  have none_held : s.unheld.path.held = none := rfl
  have none_there : s.unheld.path.atPort = none := atPort
  have released : s.release = s.unheld.busAccess (.write w be data) := by
    simp only [State.release, held, passes, Bool.false_eq_true, if_false, State.unheld]
  rw [released, State.busAccess, none_held, none_there, uses, State.mustHold_unheld, passes, second]
  rfl

end Released

end Sys2Proof.Machine
end
section
/-! PROOF. The end of a held capture write: by the hold limit with a lost line (R26), and by the take of the line (R25, R27). -/

namespace Sys2Proof.Machine

/-! ## A line lost (R26) -/

theorem mem_insertLost (k n : Nat) (l : List Nat) : n ∈ insertLost k l ↔ n = k ∨ n ∈ l := by
  induction l with
  | nil => simp [insertLost]
  | cons m l ih =>
    rw [insertLost]
    split
    · simp
    · split
      · rename_i e
        simp [e]
      · simp [ih, or_left_comm]

/-- R26: the first loss of a page, as it is reported. -/
def State.lossReport (s : State) (k : Nat) : Report :=
  { kind := .captureLostLine, page := s.coder.page, job := s.coder.job, value1 := some k }

/-- R26: line `k` joins the lost list, and page `p` of the context counts it. -/
def State.lineLost (s : State) (k : Nat) (p : Page) : State :=
  { s with
    coder := { s.coder with lost := insertLost k s.coder.lost, lostReported := true }
    store := { s.store with pages := s.store.pages.put s.coder.page (some { p with lostLines := p.lostLines + 1 }) } }

theorem State.PostsAt.lineLost {s t : State} {places : List Nat} (h : s.PostsAt t places) (k : Nat) (p : Page) :
    (s.lineLost k p).PostsAt (t.lineLost k p) places := by
  have lost : t.lineLost k p = { t with coder := (s.lineLost k p).coder, store := (s.lineLost k p).store } := by
    simp only [State.lineLost, h.alike.coder, h.alike.store]
  rw [lost]
  exact (h.withCoder (s.lineLost k p).coder).withStore (s.lineLost k p).store

/-- The same, posted. -/
def State.lineCounted (s : State) (k : Nat) : State :=
  ({ s with coder := { s.coder with lost := insertLost k s.coder.lost, lostReported := true } } : State).changePage s.coder.page
    fun p => { p with lostLines := p.lostLines + 1 }

theorem State.loseLine_eq (s : State) (k : Nat) :
    s.loseLine k = if s.coder.lostReported then s.lineCounted k else (s.lineCounted k).handReport (s.lossReport k) := rfl

/-! A report changes the report unit only. -/

theorem State.reported_eq (s : State) (r : Report) : s.reported r = { s with report := (s.reported r).report } := by
  unfold State.reported
  split
  · split <;> rfl
  · rfl

theorem State.showsAt_reported {s : State} {place : Nat} {ws : List Word} (h : s.showsAt place ws) (r : Report) :
    (s.reported r).showsAt place ws := by
  rw [State.reported_eq]
  exact h

/-- The first loss of the page is reported, and no other (R26). -/
theorem State.postsAt_loseLine {s base : State} {k : Nat} {places : List Nat} (h : base.PostsAt (s.lineCounted k) places) :
    (if s.coder.lostReported then base else base.reported (s.lossReport k)).PostsAt (s.loseLine k)
      (places ++ if s.coder.lostReported then [] else base.reportPlaces (s.lossReport k)) := by
  rw [State.loseLine_eq]
  split
  · exact h.mono (by simp)
  · have handed := (s.lineCounted k).postsAt_handReport (s.lossReport k)
    rw [h.reportPlaces] at handed
    exact (h.reported _).append handed

section Lost
variable {s : State} {p : Page} (page : s.page s.coder.page = some p) (k : Nat)
include page

theorem State.postsAt_lineCounted : (s.lineLost k p).PostsAt (s.lineCounted k) (span (pagePlace s.coder.page) 16) :=
  State.postsAt_changePage (s := { s with coder := { s.coder with lost := insertLost k s.coder.lost, lostReported := true } })
    page fun p => { p with lostLines := p.lostLines + 1 }

theorem State.showsAt_loseLine (wf : Memory.wf s.mem = true) :
    (s.loseLine k).showsAt (pagePlace s.coder.page) (pageWords (some { p with lostLines := p.lostLines + 1 })) := by
  have counted := State.postsAt_lineCounted page k
  have shown : (s.lineCounted k).showsAt (pagePlace s.coder.page) (pageWords (some { p with lostLines := p.lostLines + 1 })) :=
    State.showsAt_changePage
      (s := { s with coder := { s.coder with lost := insertLost k s.coder.lost, lostReported := true } }) wf page _
  rw [State.loseLine_eq]
  split
  · exact shown
  · have handed := (s.lineCounted k).postsAt_handReport (s.lossReport k)
    have wf : Memory.wf ((s.lineCounted k).reported (s.lossReport k)).mem = true := by
      rw [State.reported_eq, counted.mem]
      exact wf
    exact handed.showsAt wf (State.showsAt_reported shown _) fun i _ => State.pagePlace_not_mem_reportPlaces _ _ _ _

end Lost

/-! ## The hold limit (R26) -/

/-- The instant at which the hold limit runs out. -/
def State.limitReached (s : State) (since : Nat) : State :=
  { s with clock := { s.clock with now := max s.clock.now (since + s.path.holdLimit * 10) } }

theorem State.captureExpiry_eq {s : State} {w slot word since k : Nat} {be : BitVec 4} {data : Word}
    (held : s.path.held = some ⟨.write w be data, since⟩) (area : s.path.areaOf w = .captureSlot slot word)
    (pending : s.coder.slot slot = .pending k) :
    s.captureExpiry =
      ({ s.limitReached since with coder := s.coder.setSlot slot (.free (k + 8)) } : State).release.loseLine k := by
  have there : (s.reach (s.holdEnd ⟨.write w be data, since⟩)).path.areaOf w = .captureSlot slot word :=
    (congrFun (Path.areaOf_congr rfl rfl) w).trans area
  have still : (s.reach (s.holdEnd ⟨.write w be data, since⟩)).coder.slot slot = .pending k := pending
  suffices ∀ f, f = @State.captureExpiry → f s =
      ({ s.limitReached since with coder := s.coder.setSlot slot (.free (k + 8)) } : State).release.loseLine k from this _ rfl
  delta State.captureExpiry
  rintro f rfl
  beta_reduce
  obtain ⟨areaOf, named⟩ : ∃ areaOf, areaOf = @Path.areaOf := ⟨_, rfl⟩
  rw [← named] at there ⊢
  simp only [held, there, still]
  rfl

theorem Coder.slotIs_of_slots {c d : Coder} {i : Nat} {x : CaptureSlot} (h : d.slots = c.slots) (is : c.slotIs i x) :
    d.slotIs i x := by
  unfold Coder.slotIs at is ⊢
  simp only [h, is]

theorem Coder.otherSlots_of_slots {c d e : Coder} {i : Nat} (h : d.slots = e.slots) (others : c.otherSlots e i) :
    c.otherSlots d i := by
  unfold Coder.otherSlots at others ⊢
  simpa only [h] using others

theorem Coder.setSlot_self {c : Coder} {i : Nat} {x : CaptureSlot} (h : c.slot i = x) : c.setSlot i x = c := by
  have same : c.slots.setIfInBounds (i % 8) x = c.slots := by
    apply Vector.ext
    intro j hj
    rw [Vector.getElem_setIfInBounds, ← h, Coder.slot_eq]
    split
    · simp [*]
    · rfl
  rw [Coder.setSlot, same]

theorem Coder.setSlot_setSlot (c : Coder) (i : Nat) (x y : CaptureSlot) : (c.setSlot i x).setSlot i y = c.setSlot i y := by
  simp only [Coder.setSlot]
  rw [Vector.setIfInBounds_setIfInBounds]

/-- R24, R28: the slot and the page once a word of a FREE slot has passed in OPEN: the line is completed by the word of its
last byte, before CLOSE_CAPTURE. -/
theorem State.postsAt_captureObserved {s : State} {slot word width k : Nat} {p : Page} (width_eq : s.coder.width = some width)
    (free : s.coder.slot slot = .free k) (opened : s.coder.state = .opened) (page : s.page s.coder.page = some p) :
    let counts := 32 * (word + 1) = width ∧ s.coder.closing = false
    ({ s with
        coder := s.coder.setSlot slot (if counts then (if k ≤ 8190 then .pending k else .free (k + 8)) else .free k)
        store := { s.store with
          pages := s.store.pages.put s.coder.page (some { p with long := p.long || (decide counts && decide (8190 < k)) }) } } :
      State).PostsAt (s.captureObserved slot word) (span (pagePlace s.coder.page) 16) := by
  intro counts
  have same : s.store.pages.put s.coder.page (some p) = s.store.pages := PageTable.put_get page
  by_cases h : counts
  · have completes : s.coder.completedBy word := width_eq.trans (congrArg some h.1.symm)
    by_cases le : k ≤ 8190
    · rw [State.captureObserved_pending completes free opened h.2 le]
      simp only [h, le, if_true, Nat.not_lt.mpr le, decide_false, Bool.and_false, Bool.or_false, same]
      exact .refl _ _
    · have gt : 8190 < k := Nat.lt_of_not_le le
      rw [State.captureObserved_long completes free opened h.2 gt]
      simp only [h, le, if_true, if_false, gt, decide_true, Bool.and_true, Bool.or_true]
      exact State.postsAt_markLong (s := { s with coder := s.coder.setSlot slot (.free (k + 8)) }) page
  · have idle : ¬ s.coder.completedBy word ∨ s.coder.state = .idle ∨ (s.coder.state = .opened ∧ s.coder.closing = true) := by
      by_cases closing : s.coder.closing = true
      · exact .inr (.inr ⟨opened, closing⟩)
      · refine .inl fun completes => h ⟨?_, by simpa using closing⟩
        exact Option.some.inj (completes.symm.trans width_eq)
    rw [State.captureObserved_idle idle]
    simp only [h, if_false, decide_false, Bool.false_and, Bool.or_false, same, Coder.setSlot_self free]
    exact .refl _ _

/-! ## The end of the hold -/

/-- The state at the hold limit with DRAM, the path, the slots and the page's record as the release leaves them. -/
def State.expiredAs (s : State) (since : Nat) (mem : List Host.Cell) (path : Path) (slots : Vector CaptureSlot 8) (q : Page) :
    State :=
  { s.limitReached since with
    mem := mem, path := path, coder := { s.coder with slots := slots }
    store := { s.store with pages := s.store.pages.put s.coder.page (some q) } }

/-- R26, once the write has been released: line `k` is lost, the page counts it, and its first loss is reported. -/
theorem State.loseLine_expired {s released : State} {since : Nat} {mem : List Host.Cell} {path : Path}
    {slots : Vector CaptureSlot 8} {p q : Page} (k : Nat) (wf : Memory.wf mem = true) (page : s.page s.coder.page = some p)
    (posts : (s.expiredAs since mem path slots q).PostsAt released (span (pagePlace s.coder.page) 16)) :
    let counted := { q with lostLines := q.lostLines + 1 }
    let t := (released.loseLine k).askPort
    let v := { s.expiredAs since mem path slots counted with coder := t.coder }
    t.coder = { s.coder with slots := slots, lost := insertLost k s.coder.lost, lostReported := true } ∧
      t.path.stalled = path.stalled ∧
      t.showsAt (pagePlace s.coder.page) (pageWords (some counted)) ∧
      (if s.coder.lostReported then v.moves t (span (pagePlace s.coder.page) 16)
       else (v.reported (s.lossReport k)).moves t (span (pagePlace s.coder.page) 16 ++ s.reportPlaces (s.lossReport k))) := by
  intro counted t v
  have coder : released.coder = { s.coder with slots := slots } := posts.alike.coder
  have store : released.store = { s.store with pages := s.store.pages.put s.coder.page (some q) } := posts.alike.store
  have there : released.page released.coder.page = some q := by
    rw [coder, State.page, store]
    exact State.page_setPage_self page (some q)
  let lost := (s.expiredAs since mem path slots q).lineLost k q
  have recounted : lost.PostsAt (released.lineCounted k) (span (pagePlace s.coder.page) 16) := by
    have posted := State.postsAt_lineCounted there k
    rw [coder] at posted
    exact (posts.lineLost k q).trans posted
  have lose := (State.postsAt_loseLine recounted).append (State.postsAt_askPort _)
  have report : released.lossReport k = s.lossReport k := by rw [State.lossReport, coder]; rfl
  rw [report, coder] at lose
  have lost_eq : lost = { s.expiredAs since mem path slots counted with coder := lost.coder } := by
    simp only [lost, State.lineLost, State.expiredAs, PageTable.put_put]
    rfl
  have kept : t.coder = lost.coder ∧ t.path.stalled = lost.path.stalled := by
    have alike := lose.alike
    split at alike
    · exact ⟨alike.coder, alike.stalled⟩
    · rw [State.reported_eq] at alike
      exact ⟨alike.coder, alike.stalled⟩
  have shown := State.showsAt_loseLine there k (by rw [posts.mem]; exact wf)
  rw [coder] at shown
  have v_eq : v = lost := by rw [lost_eq, ← kept.1]
  refine ⟨kept.1, kept.2, shown, ?_⟩
  rw [v_eq]
  split at lose <;> rename_i reported
  · rw [if_pos reported]
    exact (lose.mono (by simp)).moves wf
  · rw [if_neg reported]
    rw [List.append_nil] at lose
    exact lose.moves (by rw [State.reported_eq]; exact wf)

/-- The port is free or busy to a word of the bus with none waiting there. -/
theorem State.portFree_or_portBusy {s : State} (atPort : s.path.atPort = none) : s.portFree ∨ s.portBusy := by
  by_cases first : s.busGoesFirst = true
  · exact .inl ⟨atPort, s.busGoesFirst_iff.mp first⟩
  · rw [State.busGoesFirst_iff, not_and_or] at first
    refine .inr (first.imp (by simp) fun some_waits => ?_)
    simpa using some_waits

section Expiry
variable {s : State} {w slot word width k since : Nat} {be : BitVec 4} {data : Word} {p : Page}
  (held : s.path.held = some ⟨.write w be data, since⟩) (enabled : be ≠ 0)
  (area : s.path.areaOf w = .captureSlot slot word) (page : s.page s.coder.page = some p)

/-- The state at the hold limit, its slot FREE for the line after the one lost. -/
def State.slotExpired (s : State) (since slot k : Nat) : State :=
  { s.limitReached since with coder := s.coder.setSlot slot (.free (k + 8)) }

theorem State.slot_slotExpired (s : State) (since slot k : Nat) :
    (s.slotExpired since slot k).coder.slot slot = .free (k + 8) := by
  rw [State.slotExpired, Coder.slot_setSlot, if_pos rfl]

theorem State.slotExpired_ne_pending (s : State) (since slot k j : Nat) :
    (s.slotExpired since slot k).coder.slot slot ≠ .pending j := by
  rw [State.slot_slotExpired]; exact CaptureSlot.noConfusion

include held enabled area page

/-- R26 at a free port: the write passes and is observed. -/
theorem State.postsAt_release_expired (opened : s.coder.state = .opened) (width_eq : s.coder.width = some width)
    (port : (s.slotExpired since slot k).portFree) :
    let counts := 32 * (word + 1) = width ∧ s.coder.closing = false
    (s.expiredAs since (Memory.writeMasked s.mem w be data) { s.path with held := none }
      (s.coder.setSlot slot
        (if counts then (if k + 8 ≤ 8190 then .pending (k + 8) else .free (k + 16)) else .free (k + 8))).slots
      { p with long := p.long || (decide counts && decide (8190 < k + 8)) }).PostsAt
      (s.slotExpired since slot k).release (span (pagePlace s.coder.page) 16) := by
  intro counts
  have area : (s.slotExpired since slot k).path.areaOf w = .captureSlot slot word :=
    (congrFun (Path.areaOf_congr rfl rfl) w).trans area
  rw [State.release_passes enabled area (s.slotExpired_ne_pending since slot k) held port]
  let passed : State := ((s.slotExpired since slot k).unheld.running (.write w be data)).passWrite w be data
  have posted := State.postsAt_captureObserved (s := passed) (word := word) width_eq (s.slot_slotExpired since slot k) opened page
  have again (x : CaptureSlot) : passed.coder.setSlot slot x = s.coder.setSlot slot x := Coder.setSlot_setSlot _ _ _ _
  simp only [again] at posted
  exact (State.PostsAt.mono (State.postsAt_run _ passed.path.run) (by simp)).trans posted

/-- R26 at a busy port: the write waits there. -/
theorem State.postsAt_release_waiting (atPort : s.path.atPort = none) (port : (s.slotExpired since slot k).portBusy) :
    (s.expiredAs since s.mem { s.path with held := none, atPort := some (.write w be data) }
      (s.coder.setSlot slot (.free (k + 8))).slots p).PostsAt (s.slotExpired since slot k).release
      (span (pagePlace s.coder.page) 16) := by
  have area : (s.slotExpired since slot k).path.areaOf w = .captureSlot slot word :=
    (congrFun (Path.areaOf_congr rfl rfl) w).trans area
  have same : s.store.pages.put s.coder.page (some p) = s.store.pages := PageTable.put_get page
  rw [State.release_waits enabled area (s.slotExpired_ne_pending since slot k) held atPort port]
  simp only [State.expiredAs, same]
  exact ⟨State.alike_run _ _ _ _, rfl, fun _ _ _ => rfl⟩

end Expiry

theorem captureHoldExpiry : Sys2Proof.Claim.CaptureHoldExpiry := by
  intro s w be data since slot word width k p wf held atPort stalled enabled area pending opened width_eq page c now counts rep op
    places lost fits
  rw [c.slotIs_iff] at pending
  have expired : captureHoldExpiryEvent s = ((s.slotExpired since slot k).release.loseLine k).resumeBus := by
    rw [captureHoldExpiryEvent, State.captureExpiry_eq held area pending]; rfl
  have done (none_left : ((s.slotExpired since slot k).release.loseLine k).path.stalled = []) :
      s.event captureHoldExpiryEvent = (s.slotExpired since slot k).release.loseLine k := by
    rw [State.event_eq (act := captureHoldExpiryEvent) fits, expired, State.resumeBus_nil none_left]
  have law {mem path slots q}
      (posts : (s.expiredAs since mem path slots q).PostsAt (s.slotExpired since slot k).release (span (pagePlace c.page) 16))
      (wf : Memory.wf mem = true) (none_left : path.stalled = []) :
      (s.event captureHoldExpiryEvent).askPort.coder.slots = slots ∧ lost (s.event captureHoldExpiryEvent).askPort
        { s with mem := mem, path := path } { q with lostLines := q.lostLines + 1 } := by
    obtain ⟨coder, none_stalled, shown, moves⟩ := State.loseLine_expired k wf page posts
    rw [done (none_stalled.trans none_left)]
    refine ⟨by rw [coder], fun n => ?_, shown, ?_⟩
    · rw [coder]
      exact mem_insertLost k n c.lost
    · rw [coder] at moves ⊢
      exact moves
  have whenFree (port : s.portFreeAt now) := law
    (State.postsAt_release_expired (k := k) held enabled area page opened width_eq port) (Memory.wf_writeMasked _ w be data wf)
    stalled
  have whenBusy (port : s.portBusyAt now) := law
    (State.postsAt_release_waiting (k := k) held enabled area page atPort port) wf stalled
  refine ⟨(s.event captureHoldExpiryEvent).askPort, rfl, ?_, fun port => ?_, fun port => ?_⟩
  · rcases State.portFree_or_portBusy (s := s.slotExpired since slot k) atPort with port | port
    · exact Coder.otherSlots_of_slots (whenFree port).1 (c.otherSlots_setSlot slot _)
    · exact Coder.otherSlots_of_slots (whenBusy port).1 (c.otherSlots_setSlot slot _)
  · obtain ⟨slots, after⟩ := whenFree port
    exact ⟨Coder.slotIs_of_slots slots (c.slotIs_setSlot slot _), after⟩
  · obtain ⟨slots, after⟩ := whenBusy port
    exact ⟨Coder.slotIs_of_slots slots (c.slotIs_setSlot slot _), after⟩

/-! ## The take of the line (R25, R27) -/

/-- A line read whole leaves none of its bytes to read. -/
theorem State.lineAhead_nil {s : State} (read : s.coder.width.getD 0 / 8 ≤ s.coder.got) : s.lineAhead = [] := by
  have none_left : s.coder.width.getD 0 / 8 - s.coder.got = 0 := by omega
  simp [State.lineAhead, none_left]

/-- The context with the line of slot `n` taken. -/
def State.slotTaken (s : State) : State :=
  { s with coder := { s.coder.setSlot s.coder.nextLine (.free (s.coder.nextLine + 8)) with got := 0 } }

theorem State.takeLine_eq {s : State} (opened : s.coder.state = .opened) (unasked : s.coder.asked = none)
    (found : s.coder.nextLine ∉ s.coder.lost) (pending : s.coder.slot s.coder.nextLine = .pending s.coder.nextLine)
    (read : s.lineAhead = []) :
    ∃ k, s.takeLine = (s.slotTaken.release.code k).codeEnd := by
  refine ⟨⟨lineToken s.coder.reference (s.slotLine s.coder.nextLine (s.coder.width.getD 0)),
    some (s.slotLine s.coder.nextLine (s.coder.width.getD 0))⟩, ?_⟩
  simp [State.takeLine, opened, unasked, found, pending, read, State.slotTaken]

theorem takeReleasesHeldWrite : Sys2Proof.Claim.TakeReleasesHeldWrite := by
  intro s w be data since word wf stalled held enabled area opened unasked found pending read unposted port fits
  rw [Coder.slotIs_iff] at pending
  let taken := s.slotTaken
  have area : taken.path.areaOf w = .captureSlot (s.coder.nextLine % 8) word :=
    (congrFun (Path.areaOf_congr rfl rfl) w).trans area
  have free (j : Nat) : taken.coder.slot (s.coder.nextLine % 8) ≠ .pending j := by
    have isFree : taken.coder.slot (s.coder.nextLine % 8) = .free (s.coder.nextLine + 8) := by
      have slot := Coder.slot_setSlot s.coder s.coder.nextLine (s.coder.nextLine % 8) (.free (s.coder.nextLine + 8))
      rw [Nat.mod_mod, if_pos rfl] at slot
      exact slot
    rw [isFree]
    exact CaptureSlot.noConfusion
  let passed : State := (taken.unheld.running (.write w be data)).passWrite w be data
  have released : passed.KeepsBus taken.release := by
    rw [State.release_passes enabled area free held port]
    exact State.keepsBus_captureObserved _ _ _
  obtain ⟨k, take⟩ := State.takeLine_eq opened unasked found pending (State.lineAhead_nil read)
  have coded : passed.KeepsBus (taken.release.code k) := released.trans (State.keepsBus_code _ k)
  have turned : passed.KeepsBus s.takeLine := take ▸ coded.trans (State.keepsBus_codeEnd coded.held)
  have done : lineTakeEvent s = s.takeLine := by
    rw [lineTakeEvent, State.resumeBus_nil (turned.stalled.trans stalled)]
  refine ⟨_, State.settle_event (act := lineTakeEvent) fits done, turned.held, ?_⟩
  have mem : s.takeLine.askPort.mem = Memory.writeMasked s.mem w be data := turned.mem
  rw [mem]

/-- Settles O22, by the rules of the hold limit and of the take. -/
theorem captureHolds : Obligations.CaptureHolds :=
  ⟨captureHoldExpiry, takeReleasesHeldWrite⟩

end Sys2Proof.Machine
end
section
/-! PROOF. ABORT_CAPTURE, and the end of a context in FULL: a command's postings at their places, a page that leaves the store,
and the release of a held capture write by a context that has become IDLE (R35, R174). -/

namespace Sys2Proof.Machine

/-! ## A command's end (R183) -/

@[simp] theorem State.beginEntry_mem (s : State) (kind : Byte) (tag : Tag) : (s.beginEntry kind tag).mem = s.mem := by
  unfold State.beginEntry State.readArrives
  dsimp only
  split
  · split <;> rfl
  · rfl

theorem State.postsAt_beginEntry (s : State) (kind : Byte) (tag : Tag) :
    (s.entryTaken kind tag).PostsAt (s.beginEntry kind tag) [] :=
  (s.handed_beginEntry kind tag).postsAt (s.beginEntry_mem kind tag)

@[simp] theorem State.askEntry_mem (s : State) : s.askEntry.mem = s.mem := by
  unfold State.askEntry
  split <;> rfl

@[simp] theorem State.endCommand_mem (s : State) (a : Answer) : (s.endCommand a).mem = s.mem := by
  simp only [State.endCommand, State.postCommand, State.askEntry_mem, State.post_mem]

/-- The places that the end of an entry posts are those of the entry in progress. -/
theorem State.postsAt_endCommand {s : State} {kind : Byte} {tag : Tag} (h : s.command.inProgress = some ⟨kind, tag⟩) (a : Answer) :
    s.entryEnded.PostsAt (s.endCommand a) s.commandPlaces :=
  (s.posts_endCommand kind tag a h).postsAt (s.endCommand_mem a) fun x out =>
    endWords_none (places := []) (s := s) (by rw [List.append_nil]; exact out)

section Ended
variable {s v b : State} {kind : Byte} {tag : Tag} {places : List Nat}
  (posts : v.PostsAt b places) (taken : v.command = (s.entryTaken kind tag).command)
include posts taken

theorem State.PostsAt.inProgress : b.command.inProgress = some ⟨kind, tag⟩ := by
  rw [posts.alike.inProgress, taken]; rfl

theorem State.PostsAt.consumer : b.command.consumer = s.command.consumer := by
  rw [posts.alike.consumer, taken]; rfl

theorem State.PostsAt.commandPlaces : b.commandPlaces = s.commandPlaces := by
  simp only [State.commandPlaces, State.entryHere, posts.consumer taken]

/-- What a command that has changed its owner's registers leaves at its end. -/
theorem State.PostsAt.ended (a : Answer) :
    ({ v with command := s.commandDone.command } : State).PostsAt (b.endCommand a).askPort (s.commandPlaces ++ places) := by
  have inProgress := posts.inProgress taken
  have consumer := posts.consumer taken
  have producer : b.command.producer = s.commandDone.command.producer := by rw [posts.alike.producer, taken]; rfl
  have before : ({ v with command := s.commandDone.command } : State).PostsAt b.entryEnded places :=
    ⟨{ posts.alike with
        producer := producer
        consumer := by simp [State.entryEnded, State.commandDone, consumer]
        inProgress := rfl }, posts.mem, posts.settled⟩
  have ended := State.postsAt_endCommand inProgress a
  rw [posts.commandPlaces taken] at ended
  exact ((before.append ended).append (State.postsAt_askPort _)).mono (by simp [or_comm])

end Ended

/-- The answer stands in the entry, whatever the command has done to DRAM (R183). -/
theorem State.answered_endCommand {s b : State} {kind : Byte} {tag : Tag} {a : Answer} (wf : Memory.wf b.mem = true)
    (inProgress : b.command.inProgress = some ⟨kind, tag⟩) (consumer : b.command.consumer = s.command.consumer) :
    s.answered (b.endCommand a).askPort tag a := by
  have entry : b.entryHere = s.entryHere := by simp [State.entryHere, consumer]
  have ended := (b.posts_endCommand kind tag a inProgress).trans (b.endCommand a).handed_askPort.posts
  have command : statusCommand (b.endCommand a).askPort.command = statusCommand b.entryEnded.command := by
    simp only [statusCommand, CommandUnit.pendingCount, ended.alike.consumer, ended.alike.producer, ended.alike.inProgress]
  have low : 64 ≤ s.entryHere := by simp only [State.entryHere, entryPlace, commandRingPlace]; omega
  have status : statusPlace + 14 = 14 := rfl
  have straps : b.entryEnded.path.straps = b.path.straps := rfl
  rw [entry] at ended
  refine ⟨?_, ?_, ?_⟩ <;> rw [ended.settledAt wf]
  · simp [endWords, atPlaces, atWord, straps, status, show ¬ s.entryHere = 8 by omega]
  · simp [endWords, atPlaces, atWord, straps, status, show ¬ s.entryHere = 7 by omega]
  · rw [command]
    simp [endWords, atPlaces, atWord, straps, status]

/-! ## A page that leaves the store (R4, R13) -/

theorem State.postsAt_abortPage {s : State} {n : Nat} {p : Page} (h : s.page n = some p) :
    (s.pageFreed n p).PostsAt (s.abortPage n) (span (pagePlace n) 16 ++ [statusPlace + 3]) := by
  have freed : s.abortPage n = ((s.pageFreed n p).postPage n).postStore := by
    unfold State.abortPage State.freePage
    rw [h]; rfl
  rw [freed]
  exact (State.postsAt_postPage _ _).append (State.postsAt_post _ _ _)

/-! ## The port is no concern of the poster's list -/

/-- The port is free to the bus where it was. -/
def State.keepsPortFree (s t : State) : Prop := s.portFree → t.portFree

theorem State.keepsPortFree_post (s : State) (place : Nat) (v : Word) : s.keepsPortFree (s.post place v) := by
  unfold State.keepsPortFree State.post State.postWord
  split <;> exact id

theorem State.keepsPortFree_foldPost : ∀ (ps : List (Nat × Word)) (s : State),
    s.keepsPortFree (ps.foldl (fun s p => s.post p.1 p.2) s)
  | [], _ => id
  | p :: ps, s => fun h => State.keepsPortFree_foldPost ps _ (s.keepsPortFree_post p.1 p.2 h)

theorem State.keepsPortFree_abortPage (s : State) (n : Nat) : s.keepsPortFree (s.abortPage n) := by
  unfold State.abortPage State.freePage
  split
  · exact id
  · rename_i p page
    intro h
    have freed : (s.pageFreed n p).portFree := h
    exact State.keepsPortFree_post _ _ _ (State.keepsPortFree_foldPost _ _ freed)

theorem Requests.engines_poster_none {r : Requests} {p : Requester × Nat}
    (h : p ∈ ({ r with poster := Option.none } : Requests).engines) : p ∈ r.engines := by
  simp only [Requests.engines, List.mem_filterMap, List.mem_cons, List.not_mem_nil, or_false] at h ⊢
  obtain ⟨q, rfl | rfl | rfl | rfl | rfl, here⟩ := h
  case inr.inr.inr.inr => cases here
  all_goals exact ⟨_, by simp, here⟩

/-- An entry that arrives takes its read off the list, and the poster's request with a read at the head (log 7). -/
theorem State.keepsPortFree_beginEntry (s : State) (kind : Byte) (tag : Tag) : s.keepsPortFree (s.beginEntry kind tag) := by
  rintro ⟨atPort, head, engines⟩
  have unhanded (b : Bool) : (s.path.headHanded && b) = false := by rw [head, Bool.false_and]
  have dropped : s.dropEntryRead.portFree := ⟨atPort, unhanded _, engines⟩
  have fewer : ∀ p ∈ ({ s.path.requests with poster := none } : Requests).engines, s.clock.now < p.2 + 20 :=
    fun p hp => engines p (Requests.engines_poster_none hp)
  unfold State.beginEntry State.readArrives
  dsimp only
  split
  · split
    · exact ⟨atPort, unhanded _, fewer⟩
    · exact dropped
  · exact ⟨atPort, head, engines⟩

end Sys2Proof.Machine
end
section
/-! PROOF. ABORT_CAPTURE: the context that becomes IDLE releases a held capture write, and the entry ends (R35, R174). -/

namespace Sys2Proof.Machine

/-! ## What is held -/

/-- A write that is held is one of a slot word (R25, R174). -/
theorem State.captureSlot_of_mustHold {s : State} {w : Nat} {be : BitVec 4} {data : Word}
    (h : s.mustHold (.write w be data) = true) : be ≠ 0 ∧ ∃ slot word, s.path.areaOf w = .captureSlot slot word := by
  suffices ∀ f, f = @State.mustHold → f s (.write w be data) = true →
      be ≠ 0 ∧ ∃ slot word, s.path.areaOf w = .captureSlot slot word from this _ rfl h
  delta State.mustHold
  rintro f rfl
  beta_reduce
  obtain ⟨areaOf, named⟩ : ∃ areaOf, areaOf = s.path.areaOf := ⟨_, rfl⟩
  rw [← named]
  intro holds
  cases area : areaOf w <;> simp [area] at holds ⊢
  exact holds.1

/-- A read is held by the map and the render context alone (R53). -/
theorem State.mustHold_read_congr {s t : State} (regions : t.path.regions = s.path.regions)
    (straps : t.path.straps = s.path.straps) (render : t.render = s.render) (w : Nat) (be : BitVec 4) :
    t.mustHold (.read w be) = s.mustHold (.read w be) := by
  suffices ∀ f, f = @State.mustHold → f t (.read w be) = f s (.read w be) from this _ rfl
  delta State.mustHold
  rintro f rfl
  beta_reduce
  obtain ⟨areaOf, named⟩ : ∃ areaOf, areaOf = s.path.areaOf := ⟨_, rfl⟩
  rw [Path.areaOf_congr regions straps, render, ← named]

/-- The slots of an IDLE context are FREE. -/
theorem Coder.powerOn_ne_pending (i k : Nat) : Coder.powerOn.slot i ≠ .pending k := by
  have free : ∀ j : Fin 8, Coder.powerOn.slots[j] = .free j := by decide
  rw [Coder.slot_eq, show Coder.powerOn.slots[i % 8]'(Nat.mod_lt _ (by decide)) = _ from free ⟨i % 8, Nat.mod_lt _ (by decide)⟩]
  exact CaptureSlot.noConfusion

/-! ## The release -/

/-- `t` is `s` after the release of its held word by an IDLE coder: the registers stand, and no word is left to decide. -/
structure State.Released (s t : State) : Prop where
  coder : t.coder = s.coder
  store : t.store = s.store
  command : t.command = s.command
  wf : Memory.wf s.mem = true → Memory.wf t.mem = true
  decided : t.path.held.isSome = true ∨ t.path.atPort.isSome = true ∨ t.path.stalled = []

/-- Nothing is decided anew behind a word held or at the port, nor where nothing waits. -/
theorem State.resumeBus_decided {s : State}
    (h : s.path.held.isSome = true ∨ s.path.atPort.isSome = true ∨ s.path.stalled = []) : s.resumeBus = s := by
  rcases h with held | atPort | none_left
  · simp [State.resumeBus, held]
  · simp [State.resumeBus, atPort]
  · exact State.resumeBus_nil none_left

theorem State.released_release {s : State} (idle : s.coder = Coder.powerOn) (stalled : s.path.stalled = [])
    (meets : ∀ h, s.path.held = some h → s.mustHold h.op = true ∨
      ∃ w be data slot word, h.op = .write w be data ∧ be ≠ 0 ∧ s.path.areaOf w = .captureSlot slot word) :
    s.Released s.release := by
  cases held : s.path.held with
  | none => rw [State.release_of_none held]; exact ⟨rfl, rfl, rfl, id, .inr (.inr stalled)⟩
  | some h =>
    obtain ⟨op, since⟩ := h
    rcases meets _ held with holds | ⟨w, be, data, slot, word, rfl, enabled, area⟩
    · have kept : s.release = s := by simp [State.release, held, holds]
      rw [kept]
      exact ⟨rfl, rfl, rfl, id, (.inl (by rw [held]; rfl))⟩
    · have free (k : Nat) : s.coder.slot slot ≠ .pending k := idle ▸ Coder.powerOn_ne_pending slot k
      cases atPort : s.path.atPort with
      | none =>
        rcases State.portFree_or_portBusy atPort with port | port
        · have unobserved : s.coder.state = .idle := by rw [idle]; rfl
          rw [State.release_passes enabled area free held port, State.captureObserved_idle (.inr (.inl (by exact unobserved)))]
          exact ⟨rfl, rfl, rfl, Memory.wf_writeMasked _ w be data, .inr (.inr stalled)⟩
        · rw [State.release_waits enabled area free held atPort port]
          exact ⟨rfl, rfl, rfl, id, .inr (.inl rfl)⟩
      | some there =>
        have behind : s.release = { s.unheld with path := { s.unheld.path with stalled := [.write w be data] } } := by
          simp [State.release, held, State.mustHold_of_free enabled area free, State.busAccess, State.unheld, atPort, stalled]
        rw [behind]
        exact ⟨rfl, rfl, rfl, id, .inr (.inl (by rw [State.unheld, atPort]; rfl))⟩

/-! ## The command -/

/-- The end of an entry is the command unit's alone. -/
theorem State.keeps_endCommand {s : State} {kind : Byte} {tag : Tag} (h : s.command.inProgress = some ⟨kind, tag⟩) (a : Answer) :
    (s.endCommand a).askPort.coder = s.coder ∧ (s.endCommand a).askPort.store = s.store ∧
      (s.endCommand a).askPort.path.held = s.path.held ∧ (s.endCommand a).askPort.mem = s.mem := by
  have posts := (State.postsAt_endCommand h a).append (State.postsAt_askPort _)
  exact ⟨posts.alike.coder, posts.alike.store, posts.alike.held, posts.mem⟩

theorem State.decided_endCommand {s : State} {kind : Byte} {tag : Tag} (h : s.command.inProgress = some ⟨kind, tag⟩) (a : Answer)
    (decided : s.path.held.isSome = true ∨ s.path.atPort.isSome = true ∨ s.path.stalled = []) :
    (s.endCommand a).resumeBus = s.endCommand a := by
  have alike := (State.postsAt_endCommand h a).alike
  refine State.resumeBus_decided ?_
  rw [alike.held, alike.atPort, alike.stalled]
  exact decided

section Aborted
variable {s idled : State} {kind : Byte} {tag : Tag} {store : Store} {places : List Nat}
  (stalled : s.path.stalled = []) (meets : s.heldMeets)
  (posts : ({ s.entryTaken kind tag with coder := Coder.powerOn, store := store } : State).PostsAt idled places)
include posts

/-- A held write of a slot word reaches DRAM at a free port (R35). -/
theorem State.release_idled {w slot word since : Nat} {be : BitVec 4} {data : Word} (port : idled.portFree) (enabled : be ≠ 0)
    (held : s.path.held = some ⟨.write w be data, since⟩) (area : s.path.areaOf w = .captureSlot slot word) :
    idled.release.path.held = none ∧ idled.release.mem = Memory.writeMasked s.mem w be data := by
  have area : idled.path.areaOf w = .captureSlot slot word :=
    (congrFun (Path.areaOf_congr posts.alike.regions posts.alike.straps) w).trans area
  have free (k : Nat) : idled.coder.slot slot ≠ .pending k := posts.alike.coder ▸ Coder.powerOn_ne_pending slot k
  have unobserved : idled.coder.state = .idle := by rw [posts.alike.coder]; rfl
  rw [State.release_passes enabled area free (posts.alike.held.trans held) port,
    State.captureObserved_idle (.inr (.inl (by exact unobserved))), ← show idled.mem = s.mem from posts.mem]
  exact ⟨rfl, rfl⟩

include stalled meets

theorem State.released_idled : idled.Released idled.release := by
  refine State.released_release posts.alike.coder (posts.alike.stalled.trans stalled) fun h held => ?_
  have held : s.path.held = some h := posts.alike.held.symm.trans held
  have holds := meets h held
  obtain ⟨op, since⟩ := h
  cases op with
  | read w be =>
    exact .inl ((State.mustHold_read_congr (s := s) posts.alike.regions posts.alike.straps posts.alike.render w be).trans holds)
  | write w be data =>
    obtain ⟨enabled, slot, word, area⟩ := State.captureSlot_of_mustHold holds
    exact .inr ⟨w, be, data, slot, word, rfl, enabled,
      (congrFun (Path.areaOf_congr posts.alike.regions posts.alike.straps) w).trans area⟩

/-- What the command leaves of the part once its context is IDLE: the held word is released, and the entry ends with 0. -/
theorem State.ended_idled (wf : Memory.wf s.mem = true) :
    let u := idled.release.endCommand (.done 0)
    u.resumeBus = u ∧ u.askPort.coder = Coder.powerOn ∧ u.askPort.store = store ∧ s.answered u.askPort tag (.done 0) ∧
      u.askPort.mem = idled.release.mem ∧ u.askPort.path.held = idled.release.path.held := by
  intro u
  have released := State.released_idled stalled meets posts
  have inProgress : idled.release.command.inProgress = some ⟨kind, tag⟩ := by
    rw [released.command]
    exact posts.inProgress rfl
  have consumer : idled.release.command.consumer = s.command.consumer := by
    rw [released.command]
    exact posts.consumer (kind := kind) (tag := tag) rfl
  obtain ⟨coder, same, held, mem⟩ := State.keeps_endCommand inProgress (.done 0)
  exact ⟨State.decided_endCommand inProgress _ released.decided, coder.trans (released.coder.trans posts.alike.coder),
    same.trans (released.store.trans posts.alike.store),
    State.answered_endCommand (released.wf (by rw [posts.mem]; exact wf)) inProgress consumer, mem, held⟩

end Aborted

end Sys2Proof.Machine
end
section
/-! PROOF. ABORT_CAPTURE as a row: the context idled with its page aborted or kept, and what the row leaves (R35). -/

namespace Sys2Proof.Machine

/-! ## Rows of commands -/

theorem State.takeCommand_done {s b : State} {kind : Nat} {tag : Tag} {act : State → State × Option Answer} {a : Answer}
    (takes : s.takes) (acted : act (s.beginEntry (BitVec.ofNat 8 kind) tag) = (b, some a)) :
    s.takeCommand kind tag act = b.endCommand a := by
  obtain ⟨none_going, given, -⟩ := takes
  simp [State.takeCommand, none_going, given, acted]

theorem State.takeCommand_going {s b : State} {kind : Nat} {tag : Tag} {act : State → State × Option Answer}
    (takes : s.takes) (acted : act (s.beginEntry (BitVec.ofNat 8 kind) tag) = (b, none)) : s.takeCommand kind tag act = b := by
  obtain ⟨none_going, given, -⟩ := takes
  simp [State.takeCommand, none_going, given, acted]

/-- A refused command leaves no word of the bus to decide where none waited. -/
theorem State.refuse_resumed {s : State} {kind : Nat} {tag : Tag} {act : State → State × Option Answer} {code : CommandRefusal}
    (takes : s.takes) (stalled : s.path.stalled = [])
    (acted : act (s.beginEntry (BitVec.ofNat 8 kind) tag) = (s.beginEntry (BitVec.ofNat 8 kind) tag).refuse code)
    {row : State → State} (taken : row s = (s.takeCommand kind tag act).resumeBus) (room : s.findsRoom row = true) :
    s.refusedWith (s.event row).askPort tag code := by
  obtain ⟨t, settled, refused⟩ := State.refuse_law takes acted
  have ended : (s.takeCommand kind tag act).askPort = t := Host.Outcome.next.inj settled
  have none_left : (s.takeCommand kind tag act).path.stalled = [] := by
    have same : t.path.stalled = s.path.stalled := refused.1.1.stalled
    rw [← ended] at same
    exact same.trans stalled
  rw [State.event_eq room, taken, State.resumeBus_nil none_left, ended]
  exact refused

/-! ## The context that becomes IDLE -/

/-- R30, R35: the context given up, before what it held is released. -/
def State.idledContext (s : State) : State :=
  (if s.coder.state = .opened then s.abortPage s.coder.page else s).captureIdle

theorem State.abandonCapture_eq (s : State) : s.abandonCapture = s.idledContext.release := rfl

theorem State.keepsPortFree_idledContext (s : State) : s.keepsPortFree s.idledContext := by
  unfold State.idledContext
  split
  · exact s.keepsPortFree_abortPage _
  · exact id

section Idled
variable (s : State) (kind : Byte) (tag : Tag)

/-- In FULL the page is gone already, and so it is where there is none. -/
theorem State.postsAt_idledContext (h : s.coder.state ≠ .opened ∨ s.page s.coder.page = none) :
    ({ s.entryTaken kind tag with coder := Coder.powerOn, store := s.store } : State).PostsAt
      (s.beginEntry kind tag).idledContext [] := by
  have begun := s.postsAt_beginEntry kind tag
  have coder : (s.beginEntry kind tag).coder = s.coder := begun.alike.coder
  have kept : (s.beginEntry kind tag).idledContext = (s.beginEntry kind tag).captureIdle := by
    unfold State.idledContext
    rw [coder]
    split
    · rename_i opened
      have none_there : (s.beginEntry kind tag).page s.coder.page = none := by
        have store : (s.beginEntry kind tag).store = s.store := begun.alike.store
        rw [State.page, store]
        exact h.resolve_left (not_not_intro opened)
      rw [State.abortPage, State.freePage, none_there]
    · rfl
  rw [kept]
  exact begun.withCoder Coder.powerOn

/-- In OPEN the FILLING page is aborted (R13). -/
theorem State.postsAt_idledContext_opened {p : Page} (opened : s.coder.state = .opened) (page : s.page s.coder.page = some p) :
    ({ s.entryTaken kind tag with
        coder := Coder.powerOn
        store := { s.store with free := s.store.free ++ p.chain, pages := s.store.pages.put s.coder.page none } } : State).PostsAt
      (s.beginEntry kind tag).idledContext (span (pagePlace s.coder.page) 16 ++ [statusPlace + 3]) := by
  have begun := s.postsAt_beginEntry kind tag
  have coder : (s.beginEntry kind tag).coder = s.coder := begun.alike.coder
  have store : (s.beginEntry kind tag).store = s.store := begun.alike.store
  have there : (s.beginEntry kind tag).page s.coder.page = some p := by rw [State.page, store]; exact page
  have aborted : (s.beginEntry kind tag).idledContext = ((s.beginEntry kind tag).abortPage s.coder.page).captureIdle := by
    rw [State.idledContext, coder, if_pos opened]
  have freed := State.postsAt_abortPage there
  rw [State.pageFreed, store] at freed
  rw [aborted]
  exact (((begun.withStore _).append freed).withCoder Coder.powerOn).mono (by simp)

end Idled

/-! ## The row -/

/-- What a command leaves that ends with 0 once its context is IDLE: the registers of the store and of an IDLE context, the
answer, the held write in DRAM at a free port, and with no word held nothing else. -/
theorem State.idled_law {s : State} {kind : Nat} {tag : Tag} {act : State → State × Option Answer} {store : Store}
    {places : List Nat} (takes : s.takes) (stalled : s.path.stalled = []) (meets : s.heldMeets)
    {row : State → State} (taken : row s = (s.takeCommand kind tag act).resumeBus) (room : s.findsRoom row = true)
    (acted : act (s.beginEntry (BitVec.ofNat 8 kind) tag) =
      ((s.beginEntry (BitVec.ofNat 8 kind) tag).idledContext.release, some (.done 0)))
    (posts : ({ s.entryTaken (BitVec.ofNat 8 kind) tag with coder := Coder.powerOn, store := store } : State).PostsAt
      (s.beginEntry (BitVec.ofNat 8 kind) tag).idledContext places) :
    let t := (s.event row).askPort
    t.coder = Coder.powerOn ∧ t.store = store ∧ s.answered t tag (.done 0) ∧
      (∀ w be data since slot word, s.path.held = some ⟨.write w be data, since⟩ → s.path.areaOf w = .captureSlot slot word →
        be ≠ 0 → s.portFree → t.path.held = none ∧ t.mem = Memory.writeMasked s.mem w be data) ∧
      (s.path.held = none →
        ({ s.commandDone with coder := Coder.powerOn, store := store } : State).moves t (s.commandPlaces ++ places)) := by
  obtain ⟨-, -, wf⟩ := id takes
  obtain ⟨decided, powerOn, kept, answered, mem, held⟩ := State.ended_idled stalled meets posts wf
  have done : s.event row = (s.beginEntry (BitVec.ofNat 8 kind) tag).idledContext.release.endCommand (.done 0) := by
    rw [State.event_eq room, taken, State.takeCommand_done takes acted, decided]
  rw [done]
  refine ⟨powerOn, kept, answered, fun w be data since slot word there area enabled port => ?_, fun none_held => ?_⟩
  · have free : (s.beginEntry (BitVec.ofNat 8 kind) tag).idledContext.portFree :=
      State.keepsPortFree_idledContext _ (s.keepsPortFree_beginEntry _ tag port)
    rw [mem, held]
    exact State.release_idled posts free enabled there area
  · rw [State.release_of_none (posts.alike.held.trans none_held)]
    exact (posts.ended rfl (.done 0)).moves wf

theorem abortCapture_acted {s : State} (tag : Tag) (taken : s.coder.state ≠ .idle) :
    abortCapture (s.beginEntry (BitVec.ofNat 8 3) tag) =
      ((s.beginEntry (BitVec.ofNat 8 3) tag).idledContext.release, some (.done 0)) := by
  have coder : (s.beginEntry (BitVec.ofNat 8 3) tag).coder = s.coder := (s.postsAt_beginEntry _ tag).alike.coder
  rw [← coder] at taken
  unfold abortCapture
  split
  · contradiction
  · rfl
  · rfl

theorem abortCaptureRow : Sys2Proof.Claim.AbortCapture := by
  intro tag s takes stalled meets room
  refine ⟨(s.event (abortCaptureEvent tag)).askPort, rfl, fun idle => ?_, fun taken => ?_, fun full => ?_, fun opened p page => ?_⟩
  · have coder : (s.beginEntry 3 tag).coder = s.coder := (s.postsAt_beginEntry 3 tag).alike.coder
    have acted : abortCapture (s.beginEntry 3 tag) = (s.beginEntry 3 tag).refuse .state := by
      rw [abortCapture, coder, idle]
    exact State.refuse_resumed takes stalled acted rfl room
  · obtain ⟨store, places, posts⟩ : ∃ store places, ({ s.entryTaken 3 tag with coder := Coder.powerOn, store := store } :
        State).PostsAt (s.beginEntry 3 tag).idledContext places := by
      by_cases opened : s.coder.state = .opened
      · cases page : s.page s.coder.page with
        | none => exact ⟨_, _, s.postsAt_idledContext 3 tag (.inr page)⟩
        | some p => exact ⟨_, _, s.postsAt_idledContext_opened 3 tag opened page⟩
      · exact ⟨_, _, s.postsAt_idledContext 3 tag (.inl opened)⟩
    obtain ⟨coder, -, answered, releases, -⟩ :=
      State.idled_law (row := abortCaptureEvent tag) takes stalled meets rfl room (abortCapture_acted tag taken) posts
    refine ⟨coder, answered, fun w be data since slot word held area enabled _ port => ?_⟩
    obtain ⟨none_held, mem⟩ := releases w be data since slot word held area enabled port
    exact ⟨none_held, by rw [mem]⟩
  · have taken : s.coder.state ≠ .idle := by rw [full]; exact CaptureState.noConfusion
    have posts := s.postsAt_idledContext 3 tag (.inl (by rw [full]; exact CaptureState.noConfusion))
    obtain ⟨-, store, -, -, moves⟩ :=
      State.idled_law (row := abortCaptureEvent tag) takes stalled meets rfl room (abortCapture_acted tag taken) posts
    refine ⟨store, fun none_held => ?_⟩
    have moved := moves none_held
    rw [List.append_nil] at moved
    exact moved
  · have taken : s.coder.state ≠ .idle := by rw [opened]; exact CaptureState.noConfusion
    have posts := s.postsAt_idledContext_opened 3 tag opened page
    obtain ⟨-, store, -, -, moves⟩ :=
      State.idled_law (row := abortCaptureEvent tag) takes stalled meets rfl room (abortCapture_acted tag taken) posts
    refine ⟨?_, by rw [store], fun none_held => ?_⟩
    · rw [State.page, store]
      exact State.page_setPage_self page none
    · have moved := moves none_held
      rw [← List.append_assoc] at moved
      exact moved

end Sys2Proof.Machine
end
section
/-! PROOF. CLOSE_CAPTURE as it is taken: the turn of END (R33, R39), and the context of a FULL page ended (R35). -/

namespace Sys2Proof.Machine

/-! ## END's code (R39) -/

theorem splitBytes_length (bits : List Bool) :
    (splitBytes bits).1.length = bits.length / 8 ∧ (splitBytes bits).2.length = bits.length % 8 := by
  have joined := congrArg List.length (splitBytesFuel_joined (bits.length / 8) bits)
  have left : (splitBytesFuel (bits.length / 8) bits).2.length < 8 := splitBytesFuel_left _ _ (by omega)
  have whole (bytes : List Byte) : (bytes.flatMap bitsOfByte).length = 8 * bytes.length := by
    induction bytes with
    | nil => rfl
    | cons b bytes ih => rw [List.flatMap_cons, List.length_append, ih, List.length_cons]; simp [bitsOfByte]; omega
  rw [List.length_append, whole] at joined
  unfold splitBytes
  omega

/-- END fills its byte with zero bits. -/
theorem Coder.endCode_eq (c : Coder) :
    c.endCode = ⟨[true, true, true] ++ List.replicate (7 - (c.tail.length + 2) % 8) false, none⟩ := by
  have zeros : (8 - (c.tail.length + endToken.length) % 8) % 8 = 7 - (c.tail.length + 2) % 8 := by
    simp only [endToken, List.length_cons, List.length_nil]
    omega
  rw [Coder.endCode, zeros]
  rfl

/-- The code's place in the store is the map's and the chain's. -/
theorem State.codedTo_congr {s t : State} (regions : t.path.regions = s.path.regions) : t.codedTo = s.codedTo := by
  funext c p k
  simp only [State.codedTo, State.codeAddr, regions]

section CodedTo
variable {s : State} {c : Coder} {p : Page}

/-- END coded: its whole bytes go to the chain. -/
theorem State.codedTo_end_fits {bits : List Bool} (fits : c.codeBits + bits.length ≤ 16384 * p.chain.length) :
    s.codedTo c p ⟨bits, none⟩ =
      ({ c with
          asked := none, endCoded := true, codeBits := c.codeBits + bits.length, tail := (splitBytes (c.tail ++ bits)).2
          writes := c.writes ++ (splitBytes (c.tail ++ bits)).1.zipIdx.map fun b => (s.codeAddr p (p.codeBytes + b.2), b.1) },
        { p with codeBytes := p.codeBytes + (splitBytes (c.tail ++ bits)).1.length }) := by
  simp only [State.codedTo, fits, if_true]

theorem State.codedTo_full {k : AskedCode} (full : ¬ c.codeBits + k.bits.length ≤ 16384 * p.chain.length) :
    s.codedTo c p k = ({ c with asked := some k }, p) := by
  simp only [State.codedTo, full, if_false]

theorem State.codedTo_end_slots (s : State) (c : Coder) (p : Page) (bits : List Bool) :
    (s.codedTo c p ⟨bits, none⟩).1.slots = c.slots := by
  by_cases fits : c.codeBits + bits.length ≤ 16384 * p.chain.length
  · rw [State.codedTo_end_fits fits]
  · rw [State.codedTo_full fits]

end CodedTo

/-- The context and the page's record, not yet posted. -/
def State.withCode (s : State) (r : Coder × Page) : State :=
  { s with coder := r.1, store := { s.store with pages := s.store.pages.put s.coder.page (some r.2) } }

section Code
variable {s : State} {p : Page} (page : s.page s.coder.page = some p)
include page

theorem State.codeFits_iff (bits : List Bool) :
    s.codeFits bits = true ↔ s.coder.codeBits + bits.length ≤ 16384 * p.chain.length := by
  rw [State.codeFits, page]
  exact decide_eq_true_iff

/-- END that finds room is posted with the page's record. -/
theorem State.code_end_fits {bits : List Bool} (fits : s.coder.codeBits + bits.length ≤ 16384 * p.chain.length) :
    s.code ⟨bits, none⟩ = (s.withCode (s.codedTo s.coder p ⟨bits, none⟩)).postPage s.coder.page := by
  rw [State.code, if_pos ((State.codeFits_iff page bits).mpr fits)]
  rw [State.codedTo_end_fits fits]
  simp only [State.writeCode, State.appendCode, page]
  rfl

/-- END that does not waits whole (R7). -/
theorem State.code_end_waits {bits : List Bool} (full : ¬ s.coder.codeBits + bits.length ≤ 16384 * p.chain.length) :
    s.code ⟨bits, none⟩ = s.withCode (s.codedTo s.coder p ⟨bits, none⟩) := by
  have same : s.store.pages.put s.coder.page (some p) = s.store.pages := PageTable.put_get page
  rw [State.code, if_neg (mt (State.codeFits_iff page bits).mp full)]
  rw [State.codedTo_full full]
  simp only [State.withCode, same]

end Code

/-! ## The turn of END (R33) -/

/-- The context with its PENDING slots freed. -/
def Coder.freed (c : Coder) : Coder := { c with slots := c.slots.map CaptureSlot.freed }

theorem Coder.slotsFreed_of_slots {c d : Coder} (h : d.slots = c.freed.slots) : c.slotsFreed d := by
  intro i lt
  unfold Coder.slotFreed Coder.slotIs
  simp only [h, Coder.freed, Vector.getElem_map]
  exact ⟨fun k pending => by rw [pending]; rfl, fun k free => by rw [free]; rfl⟩

/-- END has still to be coded, and nothing else. -/
def Coder.turn (c : Coder) : Prop := c.endCoded = false ∧ c.endsNow

theorem State.closeReady_iff (s : State) : (s.closeReady && !s.coder.endCoded) = true ↔ s.coder.turn := by
  have gap : s.coder.atGap = true ↔
      s.coder.nextLine ∉ s.coder.lost ∧ ¬ s.coder.slotIs s.coder.nextLine (.pending s.coder.nextLine) := by
    rw [Coder.slotIs_iff]
    simp [Coder.atGap]
  simp only [State.closeReady, Bool.and_eq_true, gap, Coder.turn, Coder.endsNow, beq_iff_eq, Option.isNone_iff_eq_none,
    Bool.not_eq_true']
  tauto

section Turn
variable {s : State} {p : Page} (held : s.path.held = none) (page : s.page s.coder.page = some p)

theorem State.codeEnd_noTurn (no : ¬ s.coder.turn) : s.codeEnd = s := by
  rw [State.codeEnd, if_neg (mt s.closeReady_iff.mp no)]

include held page

theorem State.codeEnd_turn (turn : s.coder.turn) :
    s.codeEnd = if p.lineCount = 0 then { s with coder := s.coder.freed }
      else ({ s with coder := s.coder.freed } : State).code
        ⟨[true, true, true] ++ List.replicate (7 - (s.coder.tail.length + 2) % 8) false, none⟩ := by
  have lines : ({ s with coder := s.coder.freed } : State).captureLines = p.lineCount := by
    rw [State.captureLines, show ({ s with coder := s.coder.freed } : State).page s.coder.freed.page = some p from page]
  have ends : s.coder.freed.endCode = _ := Coder.endCode_eq s.coder.freed
  rw [State.codeEnd, if_pos (s.closeReady_iff.mpr turn)]
  rw [show ({ s with coder := { s.coder with slots := s.coder.slots.map CaptureSlot.freed } } : State).release =
    { s with coder := s.coder.freed } from State.release_of_none held]
  dsimp only
  rw [lines, ends]
  rfl

/-- What the turn of END leaves: nothing posted, or END coded and the page's record posted, its code in whole bytes. -/
theorem State.codeEnd_spec :
    ∃ r, s.endTurned s.coder p r ∧
      ((r.1.endCoded = s.coder.endCoded ∧ s.codeEnd = s.withCode r) ∨
       (r.1.endCoded ≠ s.coder.endCoded ∧ s.codeEnd = (s.withCode r).postPage s.coder.page ∧
        (8 * p.codeBytes + s.coder.tail.length = s.coder.codeBits →
          r.2.codeBytes = (s.coder.codeBits + 3 + 7) / 8 ∧ r.1.tail = []))) := by
  have same : s.store.pages.put s.coder.page (some p) = s.store.pages := PageTable.put_get page
  by_cases turn : s.coder.turn
  · have freed (r : Coder × Page) (slots : r.1.slots = s.coder.freed.slots)
        (eq : r = if p.lineCount = 0 then (s.coder.freed, p)
          else s.codedTo s.coder.freed p ⟨[true, true, true] ++ List.replicate (7 - (s.coder.tail.length + 2) % 8) false, none⟩) :
        s.endTurned s.coder p r := by
      have again : ({ s.coder with slots := r.1.slots } : Coder) = s.coder.freed := by rw [slots]; rfl
      refine ⟨fun _ => ⟨Coder.slotsFreed_of_slots slots, ?_⟩, fun no => absurd turn no⟩
      rw [again]
      exact eq
    rw [State.codeEnd_turn held page turn]
    by_cases empty : p.lineCount = 0
    · refine ⟨(s.coder.freed, p), freed _ rfl (if_pos empty).symm, .inl ⟨rfl, ?_⟩⟩
      rw [if_pos empty, State.withCode, same]
    · generalize bits_eq : [true, true, true] ++ List.replicate (7 - (s.coder.tail.length + 2) % 8) false = bits at freed ⊢
      have size : (s.coder.tail ++ bits).length = 8 * ((s.coder.tail.length + 10) / 8) := by
        rw [← bits_eq]
        simp only [List.length_append, List.length_cons, List.length_nil, List.length_replicate]
        omega
      obtain ⟨whole, left⟩ := splitBytes_length (s.coder.tail ++ bits)
      let t : State := { s with coder := s.coder.freed }
      refine ⟨t.codedTo s.coder.freed p ⟨bits, none⟩, freed _ (t.codedTo_end_slots _ _ _) (if_neg empty).symm, ?_⟩
      have pending : s.coder.endCoded = false := turn.1
      rw [if_neg empty]
      by_cases fits : s.coder.freed.codeBits + bits.length ≤ 16384 * p.chain.length
      · have coded := State.code_end_fits (s := t) page fits
        refine .inr ⟨?_, coded, fun counts => ?_⟩ <;> simp only [State.codedTo_end_fits fits]
        · rw [pending]
          exact Bool.noConfusion
        · rw [show s.coder.freed.tail = s.coder.tail from rfl, whole, size]
          refine ⟨by omega, List.eq_nil_of_length_eq_zero ?_⟩
          rw [left, size]
          omega
      · have waits := State.code_end_waits (s := t) page fits
        refine .inl ⟨?_, waits⟩
        simp only [State.codedTo_full (k := ⟨bits, none⟩) fits]
        rfl
  · refine ⟨(s.coder, p), ⟨fun yes => absurd yes turn, fun _ => rfl⟩, .inl ⟨rfl, ?_⟩⟩
    rw [State.codeEnd_noTurn turn, State.withCode, same]

end Turn

/-! ## The row -/

theorem State.endTurned_congr {s t : State} (regions : t.path.regions = s.path.regions) : t.endTurned = s.endTurned := by
  funext c p r
  simp only [State.endTurned, State.codedTo_congr regions]

theorem closeCaptureTaken : Sys2Proof.Claim.CloseCaptureTaken := by
  intro tag s takes held stalled c closes room
  obtain ⟨-, -, wf⟩ := id takes
  have begun := s.postsAt_beginEntry (BitVec.ofNat 8 2) tag
  have coder : (s.beginEntry (BitVec.ofNat 8 2) tag).coder = s.coder := begun.alike.coder
  have store : (s.beginEntry (BitVec.ofNat 8 2) tag).store = s.store := begun.alike.store
  refine ⟨(s.event (closeCaptureEvent tag)).askPort, rfl, ?_⟩
  split <;> rename_i state
  · have acted : closeCapture (s.beginEntry (BitVec.ofNat 8 2) tag) = (s.beginEntry (BitVec.ofNat 8 2) tag).refuse .state := by
      rw [closeCapture, coder, show s.coder.state = .idle from state]
    exact State.refuse_resumed takes stalled acted rfl room
  · have acted : closeCapture (s.beginEntry (BitVec.ofNat 8 2) tag) =
        ((s.beginEntry (BitVec.ofNat 8 2) tag).idledContext.release, some (.done 0)) := by
      rw [closeCapture, coder, show s.coder.state = .full from state]
      rfl
    have meets : s.heldMeets := fun h some_held => by rw [held] at some_held; cases some_held
    have posts := s.postsAt_idledContext (BitVec.ofNat 8 2) tag
      (.inl (by rw [show s.coder.state = .full from state]; exact CaptureState.noConfusion))
    obtain ⟨-, -, answered, -, moves⟩ := State.idled_law (row := closeCaptureEvent tag) takes stalled meets rfl room acted posts
    have moved := moves held
    rw [List.append_nil] at moved
    exact ⟨moved, answered⟩
  · intro p page
    let b : State := { s.beginEntry (BitVec.ofNat 8 2) tag with coder := closes }
    have acted : closeCapture (s.beginEntry (BitVec.ofNat 8 2) tag) = (b.codeEnd, none) := by
      rw [closeCapture, coder, show s.coder.state = .opened from state]
    have none_held : b.path.held = none := begun.alike.held.trans held
    have there : b.page b.coder.page = some p := by
      rw [State.page, show b.store = s.store from store]
      exact page
    have none_left : b.codeEnd.path.stalled = [] :=
      (State.keepsBus_codeEnd none_held).stalled.trans (begun.alike.stalled.trans stalled)
    have done : s.event (closeCaptureEvent tag) = b.codeEnd := by
      rw [State.event_eq (act := closeCaptureEvent tag) room, closeCaptureEvent, State.takeCommand_going takes acted,
        State.resumeBus_nil none_left]
    obtain ⟨r, turned, out⟩ := State.codeEnd_spec none_held there
    rw [State.endTurned_congr (s := s) (t := b) begun.alike.regions] at turned
    let v : State := { s.entryTaken (BitVec.ofNat 8 2) tag with
      coder := r.1, store := { s.store with pages := s.store.pages.put c.page (some r.2) } }
    have coded : v.PostsAt (b.withCode r) [] := by
      have code : b.withCode r = { s.beginEntry (BitVec.ofNat 8 2) tag with coder := r.1, store := v.store } := by
        simp only [State.withCode, v, b, store]
        rfl
      rw [code]
      exact (begun.withCoder r.1).withStore v.store
    have recorded : (b.withCode r).page c.page = some r.2 := by
      have same : b.coder.page = c.page := rfl
      rw [State.withCode, ← same]
      exact State.page_setPage_self there (some r.2)
    have coded_wf : Memory.wf (b.withCode r).mem = true := by rw [coded.mem]; exact wf
    rw [done]
    rcases out with ⟨same, ended⟩ | ⟨differs, ended, bytes⟩ <;> rw [ended]
    · exact ⟨r.2, turned, fun _ => (coded.append (State.postsAt_askPort _)).moves wf, fun other => absurd same other⟩
    · have posts := (coded.append (State.postsAt_postPage _ c.page)).append (State.postsAt_askPort _)
      have coder_eq : ((b.withCode r).postPage b.coder.page).askPort.coder = r.1 := posts.alike.coder
      have shown := State.showsAt_postPage coded_wf c.page
      rw [recorded] at shown
      rw [List.append_nil, List.nil_append] at posts
      rw [coder_eq]
      exact ⟨r.2, turned, fun same => absurd same differs, fun _ => ⟨posts.moves wf, shown, bytes⟩⟩

/-- Settles O19, by the rows of the two commands. -/
theorem closeAndAbort : Obligations.CloseAndAbort :=
  ⟨closeCaptureTaken, abortCaptureRow⟩

end Sys2Proof.Machine
end
